-- ==== Sys2Proof/Word.lean ====
section
/-! DEFINITION. The machine's two units of data (R13, R54, R55 of spec/00_scope.md and spec/20_memory.md). -/

namespace Sys2Proof

/-- A Word: an unsigned 16-bit integer, 0 to 65535 (R13). Registers, memory cells, stack entries and operands are Words. -/
abbrev Word := BitVec 16

/-- One byte of the input channel, the output stream or a program image (R55, R54). -/
abbrev Byte := BitVec 8

end Sys2Proof
end

