-- ==== Sys2Proof/Config.lean ====
section
/-! DEFINITION. The fixed values of every instance (R6 of spec/00_scope.md) and the two parameters' values in `State.reset`.
`MEM_SIZE` and `STACK_CAP` themselves are fields of `State` (R7, R8: a model takes them as arguments), so what is
stated over all states is stated for every value of them. The spec leaves no value free ("No behaviour of this machine
is treated as `any value`", spec/93_implementation_defined.md), so there is no opaque constant here. -/

namespace Sys2Proof.Config

/-- `MODULUS`: every arithmetic and bitwise result is reduced modulo this (R6). -/
abbrev modulus : Nat := 32768

/-- `LIT_MAX`: the largest literal operand (R6). -/
abbrev litMax : Nat := 32767

/-- `REG_BASE`: the operand word of register 0 (R6). -/
abbrev regBase : Nat := 32768

/-- `REG_TOP`: the operand word of register 7 (R6). -/
abbrev regTop : Nat := 32775

/-- `OUT_MAX`: the largest value OUT accepts (R6). -/
abbrev outMax : Nat := 255

/-- The largest Word, so the largest return address a stack entry holds (R13, R191). -/
abbrev wordMax : Nat := 65535

/-- The largest `MEM_SIZE` the spec admits (R7, D1). -/
abbrev memSizeMax : Nat := 65536

/-- `MEM_SIZE` of `State.reset`. DESIGN CHOICE (log entry 2), unsafe for a claim about `State.reset` itself: R7 gives no
value; this is the largest it admits, at which every Word is an address. -/
abbrev resetMemSize : Nat := 65536

/-- `STACK_CAP` of `State.reset`: unbounded, the default R8 states (log entry 2). -/
abbrev resetStackCap : Option Nat := none

end Sys2Proof.Config
end

