-- ==== Sys2Proof/Syntax.lean ====
section
/-! DEFINITION. The instruction set: one constructor per row of spec/opcode_table.json, each with the raw operand words
`a`, `b`, `c` its kind requires (R70, R74, R75 of spec/30_encoding.md), and the three classes of an operand word (R72).
The decoder does not classify operands (R73, R79), so an instruction carries Words. -/

namespace Sys2Proof

/-- An instruction as the decoder hands it over: the opcode kind and "exactly the raw operand words its kind requires"
(R74). The constructors stand in the order of the opcode numbers 0 to 21 (R75). -/
inductive Instr where
  | halt
  | set (a b : Word)
  | push (a : Word)
  | pop (a : Word)
  | eq (a b c : Word)
  | gt (a b c : Word)
  | jmp (a : Word)
  | jt (a b : Word)
  | jf (a b : Word)
  | add (a b c : Word)
  | mult (a b c : Word)
  | mod (a b c : Word)
  | and (a b c : Word)
  | or (a b c : Word)
  | not (a b : Word)
  | rmem (a b : Word)
  | wmem (a b : Word)
  | call (a : Word)
  | ret
  | out (a : Word)
  | in_ (a : Word)
  | noop
  deriving DecidableEq, Repr

/-- What an operand word is, by its value alone (R72): a literal standing for itself, a reference to register `x[r]`,
or malformed. -/
inductive OperandClass where
  | literal (v : Word)
  | register (r : Fin 8)
  | malformed
  deriving DecidableEq, Repr

end Sys2Proof
end

