-- ==== Sys2Proof/WellFormed.lean ====
section
/-! DEFINITION. Well-formed instructions: every destination operand is a register reference and no source operand is
malformed (R72, R73 of spec/30_encoding.md). "Malformed operands [are] never produced by valid programs" (R72). The
decoder does not make this check (R79): an ill-formed instruction decodes and executes, to the no-op of R94 or the
fault of R92. -/

namespace Sys2Proof

/-- The word is a register reference, 32768 to 32775 (R72): what a destination operand must be (R73). -/
def isRegRef (w : Word) : Bool := decide (Config.regBase ≤ w.toNat) && decide (w.toNat ≤ Config.regTop)

/-- The word is a literal or a register reference, 0 to 32775 (R72): what a source operand must be (R73, R92). -/
def isSource (w : Word) : Bool := decide (w.toNat ≤ Config.regTop)

/-- The operand roles of R73 hold of the instruction. -/
def Instr.wf : Instr → Bool
  | .halt => true
  | .set a b => isRegRef a && isSource b
  | .push a => isSource a
  | .pop a => isRegRef a
  | .eq a b c => isRegRef a && isSource b && isSource c
  | .gt a b c => isRegRef a && isSource b && isSource c
  | .jmp a => isSource a
  | .jt a b => isSource a && isSource b
  | .jf a b => isSource a && isSource b
  | .add a b c => isRegRef a && isSource b && isSource c
  | .mult a b c => isRegRef a && isSource b && isSource c
  | .mod a b c => isRegRef a && isSource b && isSource c
  | .and a b c => isRegRef a && isSource b && isSource c
  | .or a b c => isRegRef a && isSource b && isSource c
  | .not a b => isRegRef a && isSource b
  | .rmem a b => isRegRef a && isSource b
  | .wmem a b => isSource a && isSource b
  | .call a => isSource a
  | .ret => true
  | .out a => isSource a
  | .in_ a => isRegRef a
  | .noop => true

end Sys2Proof
end

