-- ==== Sys2Proof/Decode.lean ====
section
/-! DEFINITION. The decoder, total on any list of Words and rejecting by name (R70, R71, R74, R75, R78 of
spec/30_encoding.md); the words of a program image (R54); and after them the encoder, written from the same opcode map. -/

namespace Sys2Proof

/-- Why words do not decode. -/
inductive DecodeError where
  /-- there is no word at all: R74 requires `pc < MEM_SIZE` -/
  | noWord
  /-- the opcode word is 22 to 65535 (R78) -/
  | unknownOpcode (op : Word)
  /-- the opcode needs `needed` operand words and they do not all exist (R74, R189) -/
  | operandsMissing (needed : Nat)
  deriving DecidableEq, Repr

/-- What the decoder answers: an instruction and the words after it, or why there is none. -/
inductive Decoded where
  | instr (i : Instr) (rest : List Word)
  | error (e : DecodeError)
  deriving DecidableEq, Repr

/-- Format F1 (R70): one operand word. -/
def decodeOperands1 (f : Word → Instr) : List Word → Decoded
  | a :: rest => .instr (f a) rest
  | _ => .error (.operandsMissing 1)

/-- Format F2 (R70): two operand words. -/
def decodeOperands2 (f : Word → Word → Instr) : List Word → Decoded
  | a :: b :: rest => .instr (f a b) rest
  | _ => .error (.operandsMissing 2)

/-- Format F3 (R70): three operand words. -/
def decodeOperands3 (f : Word → Word → Word → Instr) : List Word → Decoded
  | a :: b :: c :: rest => .instr (f a b c) rest
  | _ => .error (.operandsMissing 3)

/-- The opcode map R75 with the formats of R70: what an opcode word and the words after it stand for. The whole word is
compared (R71), and every value above 21 is rejected (R78). -/
def decodeOp (op : Word) (rest : List Word) : Decoded :=
  match op.toNat with
  | 0 => .instr .halt rest
  | 1 => decodeOperands2 .set rest
  | 2 => decodeOperands1 .push rest
  | 3 => decodeOperands1 .pop rest
  | 4 => decodeOperands3 .eq rest
  | 5 => decodeOperands3 .gt rest
  | 6 => decodeOperands1 .jmp rest
  | 7 => decodeOperands2 .jt rest
  | 8 => decodeOperands2 .jf rest
  | 9 => decodeOperands3 .add rest
  | 10 => decodeOperands3 .mult rest
  | 11 => decodeOperands3 .mod rest
  | 12 => decodeOperands3 .and rest
  | 13 => decodeOperands3 .or rest
  | 14 => decodeOperands2 .not rest
  | 15 => decodeOperands2 .rmem rest
  | 16 => decodeOperands2 .wmem rest
  | 17 => decodeOperands1 .call rest
  | 18 => .instr .ret rest
  | 19 => decodeOperands1 .out rest
  | 20 => decodeOperands1 .in_ rest
  | 21 => .instr .noop rest
  | _ => .error (.unknownOpcode op)

/-- The instruction at the head of a list of words, with the words after it (R74). -/
def decodeWords : List Word → Decoded
  | [] => .error .noWord
  | op :: rest => decodeOp op rest

/-- The words of a program image: "little-endian stream of 16-bit words", word `i` being
`bytes[2i] + 256 * bytes[2i+1]` (R54, R213); none for an odd number of bytes (R212, D3). -/
def wordsOfBytes : List Byte → Option (List Word)
  | [] => some []
  | [_] => none
  | lo :: hi :: rest => (wordsOfBytes rest).map ((hi ++ lo) :: ·)

/-- The four words (the longest instruction, R70) of an instruction numbered as spec/opcode_table.json numbers its bits:
word `k` is bits `16k+15..16k`, and every bit from `nbits` on is 0. Memory holds whole Words, so they have no byte order
(R54). -/
def tableWords (nbits w : Nat) : List Word :=
  let v := w % 2 ^ nbits
  [BitVec.ofNat 16 v, BitVec.ofNat 16 (v / 2 ^ 16), BitVec.ofNat 16 (v / 2 ^ 32), BitVec.ofNat 16 (v / 2 ^ 48)]

/-- The instruction the decoder reads from the table's word `w` of `nbits` bits. -/
def decodeTableWord (nbits w : Nat) : Option Instr :=
  match decodeWords (tableWords nbits w) with
  | .instr i _ => some i
  | .error _ => none

/-- The opcode number of the instruction (R75). -/
def Instr.opcode : Instr → Word
  | .halt => 0
  | .set _ _ => 1
  | .push _ => 2
  | .pop _ => 3
  | .eq _ _ _ => 4
  | .gt _ _ _ => 5
  | .jmp _ => 6
  | .jt _ _ => 7
  | .jf _ _ => 8
  | .add _ _ _ => 9
  | .mult _ _ _ => 10
  | .mod _ _ _ => 11
  | .and _ _ _ => 12
  | .or _ _ _ => 13
  | .not _ _ => 14
  | .rmem _ _ => 15
  | .wmem _ _ => 16
  | .call _ => 17
  | .ret => 18
  | .out _ => 19
  | .in_ _ => 20
  | .noop => 21

/-- The operand words in the order `a`, `b`, `c` (R70). -/
def Instr.operands : Instr → List Word
  | .halt => []
  | .set a b => [a, b]
  | .push a => [a]
  | .pop a => [a]
  | .eq a b c => [a, b, c]
  | .gt a b c => [a, b, c]
  | .jmp a => [a]
  | .jt a b => [a, b]
  | .jf a b => [a, b]
  | .add a b c => [a, b, c]
  | .mult a b c => [a, b, c]
  | .mod a b c => [a, b, c]
  | .and a b c => [a, b, c]
  | .or a b c => [a, b, c]
  | .not a b => [a, b]
  | .rmem a b => [a, b]
  | .wmem a b => [a, b]
  | .call a => [a]
  | .ret => []
  | .out a => [a]
  | .in_ a => [a]
  | .noop => []

/-- The instruction width: 1 plus the number of operand words (R25, R70). -/
def Instr.width (i : Instr) : Nat := 1 + i.operands.length

/-- The destination operand word, of the twelve instructions that have one; it is always operand `a` (R95). -/
def Instr.destination : Instr → Option Word
  | .set a _ => some a
  | .pop a => some a
  | .eq a _ _ => some a
  | .gt a _ _ => some a
  | .add a _ _ => some a
  | .mult a _ _ => some a
  | .mod a _ _ => some a
  | .and a _ _ => some a
  | .or a _ _ => some a
  | .not a _ => some a
  | .rmem a _ => some a
  | .in_ a => some a
  | .halt | .push _ | .jmp _ | .jt _ _ | .jf _ _ | .wmem _ _ | .call _ | .ret | .out _ | .noop => none

/-- The words of an instruction: its opcode word, then its operand words (R70). -/
def encode (i : Instr) : List Word := i.opcode :: i.operands

end Sys2Proof
end

