-- ==== Sys2Proof/Machine/State.lean ====
section
/-! DEFINITION. The machine's state as plain data: everything spec/10_state.md names (R20 to R39, R43, R44), with the
parameters of R7 and R8; the reasons a step can stop; and the state after reset. -/

namespace Sys2Proof.Machine

/-- Word-addressed memory (R50): the cells that do not hold `Memory.unlisted`, as (address, Word) pairs with strictly
rising addresses (`Memory.wf`), so that equal memories are equal lists. The unit is the Word because "There is no byte
address, no half of a Word" (R50). DESIGN CHOICE (log entry 1), safe. -/
abbrev Memory := List (Nat × Word)

/-- `STATE`, the execution state (R30). -/
inductive ExecState where
  | idle | running | paused | halted | stopped | faulted
  deriving DecidableEq, Repr

/-- `HALT_CAUSE` when it is not `None` (R31, R192). -/
inductive HaltCause where
  | haltInstruction | retEmptyStack | endOfMemory
  deriving DecidableEq, Repr

/-- `PAUSE_CAUSE` when it is not `None` (R34). -/
inductive PauseCause where
  | host | breakpoint
  deriving DecidableEq, Repr

/-- The fatal causes of R180, each with the information word that rule records. -/
inductive FaultCause where
  | unknownOpcode (op : Word)
  | stackUnderflow
  | ioValueError (v : Word)
  | malformedOperand (w : Word)
  | pcOutOfRange (target : Word)
  | memoryAddressOutOfRange (addr : Word)
  | moduloByZero (dividend : Word)
  | operandFetchOutOfRange (addr : Nat)
  | stackOverflow (depth : Nat)
  | returnAddressOverflow (ret : Nat)
  deriving DecidableEq, Repr

/-- The `kind` of a diagnostic record (R38) with the information that `report(kind, info)` is given (R14, R94, R194).
DEDUCED (log entry 14): R38's `kind` and `report`'s `info` are held together. -/
inductive DiagKind where
  | breakpoint
  | fatal (cause : FaultCause)
  | operandAddressError (w : Word)
  deriving DecidableEq, Repr

/-- One diagnostic record (R38, R160). `word` is `none` when `pc` is outside memory; `instruction` is `none` for
"undecodable"; `stack` is listed bottom first. -/
structure DiagRecord where
  kind : DiagKind
  pc : Nat
  word : Option Word
  instruction : Option Instr
  registers : Vector Word 8
  stack : List Word
  deriving DecidableEq, Repr

/-- What decoding at an address gives (R74): an instruction, one of the two decode faults, or `noCell` where there is no
cell to fetch from. -/
inductive Fetched where
  | instr (i : Instr)
  | fault (cause : FaultCause)
  | noCell
  deriving DecidableEq, Repr

/-- The whole state of one engine (R42, R43, R44). -/
structure State where
  /-- `MEM_SIZE`, the number of Words of memory, fixed at construction (R7, R29) -/
  memSize : Nat
  /-- `STACK_CAP`; `none` is unbounded (R8, R28) -/
  stackCap : Option Nat
  /-- `MEM`, the live memory (R29) -/
  mem : Memory
  /-- `BLUEPRINT`, the immutable initial image (R29) -/
  blueprint : Memory
  /-- `x[0]` to `x[7]` (R20) -/
  regs : Vector Word 8
  /-- `pc`, a natural number in `[0, MEM_SIZE]` (R24) -/
  pc : Nat
  /-- the stack, bottom (oldest) first: the tail is the top (R27) -/
  stack : List Word
  /-- `STATE` (R30) -/
  execState : ExecState
  /-- `HALT_CAUSE` (R31) -/
  haltCause : Option HaltCause
  /-- `FAULT_CAUSE` (R32) -/
  faultCause : Option FaultCause
  /-- `STOP` (R33) -/
  stop : Bool
  /-- `PAUSE` (R34) -/
  pause : Bool
  /-- `PAUSE_CAUSE` (R34) -/
  pauseCause : Option PauseCause
  /-- `BP`, a set held as a strictly rising list (R35) -/
  bp : List Nat
  /-- `BPSKIP` (R36) -/
  bpSkip : Bool
  /-- `INQ`, head first (R37) -/
  inq : List Byte
  /-- `DIAG`, oldest record first (R38) -/
  diag : List DiagRecord
  /-- `OUTPUT`, oldest byte first (R39) -/
  output : List Byte
  deriving DecidableEq, Repr

/-- Why a step attempt stops outside the spec's own outcomes. The spec's fatal errors are NOT here: they are taken
(`State.raise`, R194) and answer a next state with `STATE = Faulted`. -/
inductive Fault where
  /-- Raised by `step` alone: it would fetch at `pc > MEM_SIZE`, a value R24 says the pc never has ("a natural number in
  `[0, MEM_SIZE]`") and no rule gives a meaning. Safe: the machine stops where the spec says nothing (log entry 5). -/
  | pcBeyondMemory
  deriving DecidableEq, Repr

/-- Why a request has no meaning. No step attempt answers one. -/
inductive Refusal where
  /-- An instruction without a meaning, by its mnemonic. Safe. No arm of `exec` answers it. -/
  | notModelled (mnemonic : String)
  /-- `new` with `memory_size` 0 or above 65536 (R7, R212, U19): "refused (has no meaning in this spec)". Safe. -/
  | memorySizeOutOfRange
  /-- `new` with an odd number of program bytes (R212, D3, U19). Safe. -/
  | oddProgramLength
  deriving DecidableEq, Repr

/-- The machine right after reset: the post-reset state R44 of an engine constructed from the empty image (every cell 0,
R213, R215), with the parameters of log entry 2. -/
def State.reset : State where
  memSize := Config.resetMemSize
  stackCap := Config.resetStackCap
  mem := []
  blueprint := []
  regs := #v[0, 0, 0, 0, 0, 0, 0, 0]
  pc := 0
  stack := []
  execState := .idle
  haltCause := none
  faultCause := none
  stop := false
  pause := false
  pauseCause := none
  bp := []
  bpSkip := false
  inq := []
  diag := []
  output := []

end Sys2Proof.Machine
end

