-- ==== Sys2Proof/Machine/Memory.lean ====
section
/-! DEFINITION. The list that holds memory: its reading of one cell, its writing of one cell, its canonical form, and
the memory of a list of words (R50, R53, R213). Address range checks are `State.memRead` and `State.memWrite` in
Machine/Ops.lean. -/

namespace Sys2Proof.Machine

/-- What an unlisted cell reads as: 0, the value R213 gives a pad cell (D3; log entry 4). Every cell has a value from
construction on (R44), so no read of memory is undefined. -/
def Memory.unlisted : Word := 0

/-- The Word of the cell at an address (R50). -/
def Memory.read : Memory → Nat → Word
  | [], _ => Memory.unlisted
  | (a, v) :: rest, addr => if a = addr then v else Memory.read rest addr

/-- The memory with the cell at an address set to a Word and no other cell changed (R50); the canonical form is kept. -/
def Memory.write : Memory → Nat → Word → Memory
  | [], addr, v => if v = Memory.unlisted then [] else [(addr, v)]
  | (a, w) :: rest, addr, v =>
    if addr < a then
      if v = Memory.unlisted then (a, w) :: rest else (addr, v) :: (a, w) :: rest
    else if a = addr then
      if v = Memory.unlisted then rest else (addr, v) :: rest
    else (a, w) :: Memory.write rest addr v

/-- The canonical form from an address on: addresses at or above it strictly rising, no cell listed that reads as an
unlisted one. -/
def Memory.wfFrom : Nat → Memory → Bool
  | _, [] => true
  | lo, (a, v) :: rest => decide (lo ≤ a) && decide (v ≠ Memory.unlisted) && Memory.wfFrom (a + 1) rest

/-- The canonical form: equal memories are equal lists. -/
def Memory.wf (m : Memory) : Bool := Memory.wfFrom 0 m

/-- Every listed address is below a bound. -/
def Memory.below (bound : Nat) (m : Memory) : Bool := m.all fun c => decide (c.1 < bound)

/-- The memory that holds a list of words from an address on, 0 elsewhere (R213). -/
def Memory.ofWords : Nat → List Word → Memory
  | _, [] => []
  | addr, w :: ws => if w = Memory.unlisted then Memory.ofWords (addr + 1) ws else (addr, w) :: Memory.ofWords (addr + 1) ws

end Sys2Proof.Machine
end

