-- ==== Sys2Proof/Machine/Ops.lean ====
section
/-! DEFINITION. The named operations every rule uses (R14 of spec/00_scope.md): memory and registers, the stack, the
streams, decoding at an address (R74), the diagnostic record (R38, R160), and the ways an instruction can end: completing,
halting, the invalid-destination no-op (R94), and TAKING A FATAL FAULT (R194), which is this machine's only exception
entry. There is no return from a fault (R195): `hostReset` in Machine/HostOps.lean is the one way out. -/

namespace Sys2Proof.Machine

/-- `MemRead(addr, 1)`, defined only for `addr < MEM_SIZE` (R14, R50, R57). -/
def State.memRead (s : State) (addr : Nat) : Option Word :=
  if addr < s.memSize then some (s.mem.read addr) else none

/-- `MemWrite(addr, 1, v)`, defined only for `addr < MEM_SIZE` (R14, R50, R57). -/
def State.memWrite (s : State) (addr : Nat) (v : Word) : Option State :=
  if addr < s.memSize then some { s with mem := s.mem.write addr v } else none

/-- Words stored from an address on, those whose cell does not exist left out. -/
def State.storeWords (s : State) (addr : Nat) : List Word → State
  | [] => s
  | w :: ws => ((s.storeWords (addr + 1) ws).memWrite addr w).getD (s.storeWords (addr + 1) ws)

/-- `x[i] <- v` (R14, R20). -/
def State.setReg (s : State) (r : Fin 8) (v : Word) : State := { s with regs := s.regs.set r v }

/-- `depth` (R14, R27). -/
def State.depth (s : State) : Nat := s.stack.length

/-- The stack is full: `depth = STACK_CAP` for a finite `STACK_CAP` (R101, R190). -/
def State.stackFull (s : State) : Bool := s.stackCap == some s.depth

/-- The top of the stack, none when it is empty (R27). -/
def State.top (s : State) : Option Word := s.stack.getLast?

/-- `push(v)`: append at the tail, the top (R14, R27). -/
def State.pushWord (s : State) (v : Word) : State := { s with stack := s.stack ++ [v] }

/-- The removal of the top entry that `pop()` makes (R14, R27). -/
def State.dropTop (s : State) : State := { s with stack := s.stack.dropLast }

/-- `emit(b)`: append one byte to `OUTPUT` (R14, R39). -/
def State.emit (s : State) (b : Byte) : State := { s with output := s.output ++ [b] }

/-- The removal of the head byte of `INQ` (R37, R143). -/
def State.dropInput (s : State) : State := { s with inq := s.inq.tail }

/-- The cells that exist among the four at and after an address: the longest instruction (R70). -/
def State.wordsAt (s : State) (addr : Nat) : List Word :=
  [addr, addr + 1, addr + 2, addr + 3].filterMap s.memRead

/-- `decode(memory, pc)` (R74): a pure function of the memory contents and the address. -/
def State.decodeAt (s : State) (addr : Nat) : Fetched :=
  match decodeWords (s.wordsAt addr) with
  | .instr i _ => .instr i
  | .error (.unknownOpcode op) => .fault (.unknownOpcode op)
  | .error (.operandsMissing n) => .fault (.operandFetchOutOfRange (addr + n))
  | .error .noWord => .noCell

/-- The cause codes of R180, labels of this spec's choosing (D26). -/
def causeCode : FaultCause → Nat
  | .unknownOpcode _ => 1
  | .stackUnderflow => 2
  | .ioValueError _ => 3
  | .malformedOperand _ => 5
  | .pcOutOfRange _ => 6
  | .memoryAddressOutOfRange _ => 7
  | .moduloByZero _ => 8
  | .operandFetchOutOfRange _ => 9
  | .stackOverflow _ => 10
  | .returnAddressOverflow _ => 11

/-- The error code of a diagnostic record (R180): the fatal cause's, or 4 for `OperandAddressError`; a breakpoint is no
error and has none. -/
def diagCode : DiagKind → Option Nat
  | .breakpoint => none
  | .fatal cause => some (causeCode cause)
  | .operandAddressError _ => some 4

/-- The diagnostic record of a kind at the present state (R38, R160, R194). Making it never faults. -/
def State.record (s : State) (kind : DiagKind) : DiagRecord where
  kind := kind
  pc := s.pc
  word := s.memRead s.pc
  instruction :=
    match s.decodeAt s.pc with
    | .instr i => some i
    | .fault _ => none
    | .noCell => none
  registers := s.regs
  stack := s.stack

/-- `report(kind, info)`: append one record to `DIAG` (R14, R38). -/
def State.report (s : State) (kind : DiagKind) : State := { s with diag := s.diag ++ [s.record kind] }

/-- The end of an instruction that completes with the pc at `pc'`: line 9 of R151 clears `BPSKIP` (R159). -/
def State.retire (s : State) (pc' : Nat) : State := { s with pc := pc', bpSkip := false }

/-- `halt(cause)` (R14), with the `BPSKIP <- 0` of R151 lines 6 and 9. Everything else keeps its value (R192). -/
def State.halt (s : State) (cause : HaltCause) : State :=
  { s with execState := .halted, haltCause := some cause, bpSkip := false }

/-- `raise F(info)`: taking a fatal fault (R194). The cause is recorded, `STATE` becomes `Faulted`, one record is
appended, `BPSKIP` is cleared, and nothing else changes: the pc stays at the faulting instruction. -/
def State.raise (s : State) (cause : FaultCause) : State :=
  { s.report (.fatal cause) with execState := .faulted, faultCause := some cause, bpSkip := false }

/-- The no-op of an instruction whose destination operand `a` is invalid (R94, R184): one record, the pc past the
instruction, `BPSKIP` cleared, nothing else. -/
def State.invalidDestination (s : State) (a : Word) (width : Nat) : State :=
  (s.report (.operandAddressError a)).retire (s.pc + width)

/-- Line 5 of R151: the breakpoint at the pc is reported and the engine suspends before decode (R158, R159). -/
def State.breakpointHit (s : State) : State :=
  { s.report .breakpoint with bpSkip := true, pause := true, pauseCause := some .breakpoint, execState := .paused }

end Sys2Proof.Machine
end

