-- ==== Sys2Proof/Machine/Operands.lean ====
section
/-! DEFINITION. Operand resolution, the one addressing decoder of the machine (spec/40_operand_resolution.md): `rd` and
`dst` (R91 to R93), and the order of tests they give every instruction (R96): destination first, then sources in the order
`a`, `b`, `c`. There are no other operand forms (R90). -/

namespace Sys2Proof.Machine

/-- The class of an operand word (R72). The index is the word less 32768, "never obtained by `w mod 32768` or
`w mod 8`". 65535 is malformed (D4, C1). -/
def classify (w : Word) : OperandClass :=
  if w.toNat ≤ Config.litMax then .literal w
  else if h : w.toNat - Config.regBase < 8 then .register ⟨w.toNat - Config.regBase, h⟩
  else .malformed

/-- `rd(w)` (R91): a literal gives itself, a register reference the register's full Word, neither reduced nor resolved
again; none for a malformed word, which faults (R92). -/
def rd (s : State) (w : Word) : Option Word :=
  match classify w with
  | .literal v => some v
  | .register r => some s.regs[r]
  | .malformed => none

/-- `dst(w)` (R93): the register a destination operand names; none where it is invalid (a literal or malformed). -/
def dst (w : Word) : Option (Fin 8) :=
  match classify w with
  | .literal _ => none
  | .register r => some r
  | .malformed => none

/-- The destination test, made before anything else (R94, R96 step 1): an invalid destination makes the instruction the
no-op of R94, of the given width. -/
def withDst (a : Word) (width : Nat) (s : State) (k : Fin 8 → State) : State :=
  match dst a with
  | some r => k r
  | none => s.invalidDestination a width

/-- The resolution of one source operand (R96 step 2): a malformed word is the fatal fault `MalformedOperand` (R92,
R185). -/
def withRd (w : Word) (s : State) (k : Word → State) : State :=
  match rd s w with
  | some v => k v
  | none => s.raise (.malformedOperand w)

end Sys2Proof.Machine
end

