-- ==== Sys2Proof/Machine/Alu.lean ====
section
/-! DEFINITION. EQ, GT, ADD, MULT, MOD, AND, OR, NOT: the modulo-32768 arithmetic and logic unit (spec/42_alu.md, R110 to
R118). Each function is computed exactly over the naturals from the two full Words and only then reduced (R110). -/

namespace Sys2Proof.Machine

/-- A natural number reduced modulo 32768 (R110, R119). -/
def reduce (n : Nat) : Word := BitVec.ofNat 16 (n % Config.modulus)

/-- EQ's function: all 16 bits compared, no reduction (R111). -/
def aluEq (vb vc : Word) : Word := if vb = vc then 1 else 0

/-- GT's function: an unsigned comparison of 16-bit Words (R112, D31). -/
def aluGt (vb vc : Word) : Word := if vc.toNat < vb.toNat then 1 else 0

/-- ADD's function (R113). -/
def aluAdd (vb vc : Word) : Word := reduce (vb.toNat + vc.toNat)

/-- MULT's function: the exact product, then reduced (R114). -/
def aluMult (vb vc : Word) : Word := reduce (vb.toNat * vc.toNat)

/-- MOD's function for a divisor that is not 0 (R115). -/
def aluMod (vb vc : Word) : Word := reduce (vb.toNat % vc.toNat)

/-- AND's function (R116). -/
def aluAnd (vb vc : Word) : Word := reduce (vb &&& vc).toNat

/-- OR's function (R117). -/
def aluOr (vb vc : Word) : Word := reduce (vb ||| vc).toNat

/-- NOT's function: the 15-bit complement (R118). -/
def aluNot (vb : Word) : Word := ~~~vb &&& 0x7FFF

/-- The shape of the three-operand forms (R110): width 4. -/
def aluOp3 (f : Word → Word → Word) (a b c : Word) (s : State) : State :=
  withDst a 4 s fun r => withRd b s fun vb => withRd c s fun vc => (s.setReg r (f vb vc)).retire (s.pc + 4)

/-- EQ a, b, c (R111). -/
def execEq (a b c : Word) (s : State) : Host.Outcome State Fault Refusal := .next (aluOp3 aluEq a b c s)

/-- GT a, b, c (R112). -/
def execGt (a b c : Word) (s : State) : Host.Outcome State Fault Refusal := .next (aluOp3 aluGt a b c s)

/-- ADD a, b, c (R113). -/
def execAdd (a b c : Word) (s : State) : Host.Outcome State Fault Refusal := .next (aluOp3 aluAdd a b c s)

/-- MULT a, b, c (R114). -/
def execMult (a b c : Word) (s : State) : Host.Outcome State Fault Refusal := .next (aluOp3 aluMult a b c s)

/-- MOD a, b, c (R115): a divisor of 0 is the fault `ModuloByZero`, tested after both sources are resolved (R188, D9). -/
def execMod (a b c : Word) (s : State) : Host.Outcome State Fault Refusal :=
  .next <| withDst a 4 s fun r => withRd b s fun vb => withRd c s fun vc =>
    if vc = 0 then s.raise (.moduloByZero vb) else (s.setReg r (aluMod vb vc)).retire (s.pc + 4)

/-- AND a, b, c (R116). -/
def execAnd (a b c : Word) (s : State) : Host.Outcome State Fault Refusal := .next (aluOp3 aluAnd a b c s)

/-- OR a, b, c (R117). -/
def execOr (a b c : Word) (s : State) : Host.Outcome State Fault Refusal := .next (aluOp3 aluOr a b c s)

/-- NOT a, b (R118): width 3. -/
def execNot (a b : Word) (s : State) : Host.Outcome State Fault Refusal :=
  .next <| withDst a 3 s fun r => withRd b s fun vb => (s.setReg r (aluNot vb)).retire (s.pc + 3)

end Sys2Proof.Machine
end

