-- ==== Sys2Proof/Machine/ControlFlow.lean ====
section
/-! DEFINITION. JMP, JT, JF, CALL, RET (spec/43_control_flow.md, R130 to R135). Every target is an absolute word address
(R4, R135, C15). -/

namespace Sys2Proof.Machine

/-- A jump to `t`: the range test before any write, then the pc (R130, R135, R186). -/
def jumpTo (t : Word) (s : State) : State :=
  if t.toNat < s.memSize then s.retire t.toNat else s.raise (.pcOutOfRange t)

/-- JMP a (R130). -/
def execJmp (a : Word) (s : State) : Host.Outcome State Fault Refusal :=
  .next <| withRd a s fun t => jumpTo t s

/-- JT a, b (R131): both sources are resolved, taken or not (D16). -/
def execJt (a b : Word) (s : State) : Host.Outcome State Fault Refusal :=
  .next <| withRd a s fun va => withRd b s fun t => if va ≠ 0 then jumpTo t s else s.retire (s.pc + 3)

/-- JF a, b (R132): both sources are resolved, taken or not (D16). -/
def execJf (a b : Word) (s : State) : Host.Outcome State Fault Refusal :=
  .next <| withRd a s fun va => withRd b s fun t => if va = 0 then jumpTo t s else s.retire (s.pc + 3)

/-- CALL a (R133): the tests in the rule's order, all before the push; the return address is `pc + 2`. -/
def execCall (a : Word) (s : State) : Host.Outcome State Fault Refusal :=
  .next <| withRd a s fun t =>
    if s.memSize ≤ t.toNat then s.raise (.pcOutOfRange t)
    else if Config.wordMax < s.pc + 2 then s.raise (.returnAddressOverflow (s.pc + 2))
    else if s.stackFull then s.raise (.stackOverflow s.depth)
    else (s.pushWord (BitVec.ofNat 16 (s.pc + 2))).retire t.toNat

/-- RET (R134): the popped Word is an address as it stands, not resolved; an empty stack is a benign halt (R182, R192);
a bad target leaves the stack as it was (D13). -/
def execRet (s : State) : Host.Outcome State Fault Refusal :=
  .next <|
    match s.top with
    | none => s.halt .retEmptyStack
    | some t => if t.toNat < s.memSize then s.dropTop.retire t.toNat else s.raise (.pcOutOfRange t)

end Sys2Proof.Machine
end

