-- ==== Sys2Proof/Machine/DataMovement.lean ====
section
/-! DEFINITION. SET, PUSH, POP, RMEM, WMEM (spec/41_data_movement.md, R100 to R104). Values are copied whole, never
reduced (R100 to R104). -/

namespace Sys2Proof.Machine

/-- SET a, b (R100). -/
def execSet (a b : Word) (s : State) : Host.Outcome State Fault Refusal :=
  .next <| withDst a 3 s fun r => withRd b s fun v => (s.setReg r v).retire (s.pc + 3)

/-- PUSH a (R101). -/
def execPush (a : Word) (s : State) : Host.Outcome State Fault Refusal :=
  .next <| withRd a s fun v =>
    if s.stackFull then s.raise (.stackOverflow s.depth) else (s.pushWord v).retire (s.pc + 2)

/-- POP a (R102). -/
def execPop (a : Word) (s : State) : Host.Outcome State Fault Refusal :=
  .next <| withDst a 2 s fun r =>
    match s.top with
    | none => s.raise .stackUnderflow
    | some v => (s.dropTop.setReg r v).retire (s.pc + 2)

/-- RMEM a, b (R103). -/
def execRmem (a b : Word) (s : State) : Host.Outcome State Fault Refusal :=
  .next <| withDst a 3 s fun r => withRd b s fun addr =>
    match s.memRead addr.toNat with
    | none => s.raise (.memoryAddressOutOfRange addr)
    | some v => (s.setReg r v).retire (s.pc + 3)

/-- WMEM a, b (R104): `a` is a source that gives an address, not a destination (R95, C10). -/
def execWmem (a b : Word) (s : State) : Host.Outcome State Fault Refusal :=
  .next <| withRd a s fun addr => withRd b s fun v =>
    match s.memWrite addr.toNat v with
    | none => s.raise (.memoryAddressOutOfRange addr)
    | some t => t.retire (s.pc + 3)

end Sys2Proof.Machine
end

