-- ==== Sys2Proof/Machine/SystemIo.lean ====
section
/-! DEFINITION. HALT, NOOP, OUT, IN (spec/44_system_io.md, R140 to R144). -/

namespace Sys2Proof.Machine

/-- HALT (R140): the pc stays at the HALT (D14, C16). -/
def execHalt (s : State) : Host.Outcome State Fault Refusal := .next (s.halt .haltInstruction)

/-- NOOP (R141). -/
def execNoop (s : State) : Host.Outcome State Fault Refusal := .next (s.retire (s.pc + 1))

/-- OUT a (R142): a value above 255 is the fault `IOValueError` and nothing is emitted (R183). -/
def execOut (a : Word) (s : State) : Host.Outcome State Fault Refusal :=
  .next <| withRd a s fun v =>
    if Config.outMax < v.toNat then s.raise (.ioValueError v) else (s.emit (v.setWidth 8)).retire (s.pc + 2)

/-- IN a (R143): the head byte of `INQ`, zero-extended; on an empty `INQ` the step ends with no change at all, `BPSKIP`
included (the stall, R144). -/
def execIn (a : Word) (s : State) : Host.Outcome State Fault Refusal :=
  .next <| withDst a 2 s fun r =>
    match s.inq with
    | [] => s
    | b :: _ => (s.dropInput.setReg r (b.setWidth 16)).retire (s.pc + 2)

end Sys2Proof.Machine
end

