-- ==== Sys2Proof/Machine/Cycle.lean ====
section
/-! DEFINITION. The step sequence that wraps every instruction (R150, R151 of spec/45_engine_cycle_and_control.md). -/

namespace Sys2Proof.Machine

/-- `STATE` is one of the three terminal values (R30, R151 line 1, R165). -/
def ExecState.terminal : ExecState → Bool
  | .idle => false
  | .running => false
  | .paused => false
  | .halted => true
  | .stopped => true
  | .faulted => true

/-- The breakpoint comparator: `pc in BP and BPSKIP = 0` (R151 line 5, R158). -/
def State.breakpointFires (s : State) : Bool := s.bp.contains s.pc && !s.bpSkip

/-- Line 4 of R151: `STATE <- Running`, from Idle, Running, or Paused with `PAUSE = 0`. -/
def State.started (s : State) : State := { s with execState := .running }

/-- Lines 6 to 9 of R151: the end of memory, fetch and decode with their faults, and the instruction. The last case is
the state R24 excludes (log entry 5). -/
def fetchAndExecute (s : State) : Host.Outcome State Fault Refusal :=
  if s.pc = s.memSize then .next (s.halt .endOfMemory)
  else
    match s.decodeAt s.pc with
    | .instr i => exec i s
    | .fault cause => .next (s.raise cause)
    | .noCell => .fault .pcBeyondMemory

/-- One step attempt, in the order of R151. -/
def stepAttempt (s : State) : Host.Outcome State Fault Refusal :=
  if s.execState.terminal then .next s
  else if s.stop then .next { s with execState := .stopped }
  else if s.pause then .next { s with execState := .paused }
  else if s.started.breakpointFires then .next s.started.breakpointHit
  else fetchAndExecute s.started

/-- "Waiting for input", a predicate and not a stored bit (R43): `STATE = Running`, the instruction at the pc is an IN
with a valid destination, and `INQ` is empty. -/
def State.waitingForInput (s : State) : Bool :=
  decide (s.execState = .running) && s.inq.isEmpty &&
    match s.decodeAt s.pc with
    | .instr (.in_ a) => (dst a).isSome
    | .instr _ => false
    | .fault _ => false
    | .noCell => false

/-- The outcomes of a step attempt by name (R15). -/
inductive AttemptOutcome where
  | completed | noOp | halted | faulted | stalled | suspended | stopped
  deriving DecidableEq, Repr

/-- The outcome of an instruction that takes the state to `t` (R15): halted, faulted, stalled, a no-op by invalid
destination, or completed. -/
def instrOutcome (i : Instr) (s t : State) : AttemptOutcome :=
  if t.execState = .halted then .halted
  else if t.execState = .faulted then .faulted
  else if s.waitingForInput then .stalled
  else if i.destination.any fun a => (dst a).isNone then .noOp
  else .completed

/-- Which of the outcomes of R15 the step attempt from this state has. None in a terminal state, where the attempt ends
with no change at all (R151 line 1) and R15 names no outcome. -/
def attemptOutcome (s : State) : Option AttemptOutcome :=
  if s.execState.terminal then none
  else if s.stop then some .stopped
  else if s.pause then some .suspended
  else if s.started.breakpointFires then some .suspended
  else if s.pc = s.memSize then some .halted
  else
    match s.decodeAt s.pc with
    | .instr i =>
      match exec i s.started with
      | .next u => some (instrOutcome i s.started u)
      | .fault _ => none
      | .refused _ => none
    | .fault _ => some .faulted
    | .noCell => none

/-- The byte the step attempt from this state takes from `INQ`: the head byte where an IN completes (R62, R143), none
otherwise. -/
def State.byteTaken (s : State) : List Byte :=
  match s.decodeAt s.pc with
  | .instr (.in_ _) => if attemptOutcome s = some .completed then s.inq.take 1 else []
  | .instr _ => []
  | .fault _ => []
  | .noCell => []

end Sys2Proof.Machine
end

