-- ==== Sys2Proof/Machine/Step.lean ====
section
/-! DEFINITION. The engine's one step, and the placing of an instruction where it fetches next. -/

namespace Sys2Proof.Machine

/-- One step attempt (R150, R151). Host operations land between two of these (R11): Machine/HostOps.lean. -/
def step (s : State) : Host.Outcome State Fault Refusal := stepAttempt s

/-- The state with the instruction of the table's word `w` in the cells at the pc, where `step` fetches next, and nothing
else changed. It stands for the program load that the host makes with `new` (log entry 3). -/
def State.withFetchWord (s : State) (nbits w : Nat) : State := s.storeWords s.pc (tableWords nbits w)

end Sys2Proof.Machine
end

