-- ==== Sys2Proof/Machine/Listing.lean ====
section
/-! DEFINITION. The listing syntax of the instruction set: the disassembler's text form (R82 to R84 of
spec/30_encoding.md), "a pure function a model may implement or leave out; no rule of the machine depends on it"
(R5). The spelling the source leaves open is the spec's decision D29. -/

namespace Sys2Proof.Machine

/-- One record of a listing (R82): an instruction or a raw data literal, at its address. -/
inductive ListingRecord where
  | instr (addr : Nat) (i : Instr)
  | data (addr : Nat) (w : Word)
  deriving DecidableEq, Repr

/-- The walk of R82 from an address over the words that remain; `fuel` bounds the records (each takes a word or more).
An undecodable word, or an instruction cut off by the end of memory, is data and the walk advances by one word. -/
def listFrom : Nat → Nat → List Word → List ListingRecord
  | 0, _, _ => []
  | _ + 1, _, [] => []
  | fuel + 1, addr, w :: ws =>
    match decodeWords (w :: ws) with
    | .instr i rest => .instr addr i :: listFrom fuel (addr + i.width) rest
    | .error _ => .data addr w :: listFrom fuel (addr + 1) ws

/-- `disassemble(memory)` (R82). -/
def disassemble (memory : List Word) : List ListingRecord := listFrom memory.length 0 memory

/-- The cells of a memory of `memSize` Words in address order: the snapshot the disassembler is given (R60, R82). -/
def Memory.snapshot (memSize : Nat) (m : Memory) : List Word := (List.range memSize).map m.read

/-- The mnemonic, in upper case exactly as in R75 (R84). -/
def mnemonicOf : Instr → String
  | .halt => "HALT"
  | .set _ _ => "SET"
  | .push _ => "PUSH"
  | .pop _ => "POP"
  | .eq _ _ _ => "EQ"
  | .gt _ _ _ => "GT"
  | .jmp _ => "JMP"
  | .jt _ _ => "JT"
  | .jf _ _ => "JF"
  | .add _ _ _ => "ADD"
  | .mult _ _ _ => "MULT"
  | .mod _ _ _ => "MOD"
  | .and _ _ _ => "AND"
  | .or _ _ _ => "OR"
  | .not _ _ => "NOT"
  | .rmem _ _ => "RMEM"
  | .wmem _ _ => "WMEM"
  | .call _ => "CALL"
  | .ret => "RET"
  | .out _ => "OUT"
  | .in_ _ => "IN"
  | .noop => "NOOP"

/-- An operand as text (R83): a literal and a malformed word in decimal, a register as `R<index>`. -/
def renderOperand (w : Word) : String :=
  match classify w with
  | .literal v => toString v.toNat
  | .register r => "R" ++ toString r.val
  | .malformed => toString w.toNat

/-- The operands of an instruction as text; "an OUT literal operand equal to 10 renders as a newline escape", the two
characters backslash and n (R83). -/
def renderOperands : Instr → List String
  | .out a => if a = 10 then ["\\n"] else [renderOperand a]
  | i => i.operands.map renderOperand

/-- A record as one line of text (R84). -/
def ListingRecord.render : ListingRecord → String
  | .instr addr i => " ".intercalate (toString addr :: mnemonicOf i :: renderOperands i)
  | .data addr w => " ".intercalate [toString addr, "DATA", toString w.toNat]

end Sys2Proof.Machine
end

