-- ==== Sys2Proof/Machine/Flags.lean ====
section
/-! DEFINITION. The machine has no flags, condition codes or predicate registers and no instruction computes one (R40):
EQ and GT write a general register. The only flags of the spec are the two request flags the host raises, `STOP` and
`PAUSE` (R33, R34, R197); their writing is here, their sampling in Machine/Cycle.lean (R151 lines 2 and 3). -/

namespace Sys2Proof.Machine

/-- `STOP <- 1` (R155). -/
def State.raiseStop (s : State) : State := { s with stop := true }

/-- `PAUSE <- 1` with the cause recorded (R34, R154). -/
def State.raisePause (s : State) (cause : PauseCause) : State := { s with pause := true, pauseCause := some cause }

/-- `PAUSE <- 0; PAUSE_CAUSE <- None` (R154). -/
def State.clearPause (s : State) : State := { s with pause := false, pauseCause := none }

end Sys2Proof.Machine
end

