-- ==== Sys2Proof/Machine/HostOps.lean ====
section
/-! DEFINITION. The host's operations, "the complete list" of R163 of spec/45_engine_cycle_and_control.md: each an atomic
function that lands between two step attempts (R11), construction (R212, R213) and reset (R210) of
spec/70_reset_and_hazards.md, and the interleaving of host operations with step attempts (R164). -/

namespace Sys2Proof.Machine

/-- The `BLUEPRINT` of a program's words in a memory of `memorySize` Words: truncated to it, padded with 0 (R213). -/
def imageMemory (memorySize : Nat) (words : List Word) : Memory := Memory.ofWords 0 (words.take memorySize)

/-- `new(program_bytes, memory_size)` (R212), with the parameter `STACK_CAP` of R8. -/
def hostNew (programBytes : List Byte) (memorySize : Nat) (stackCap : Option Nat) : Host.Outcome State Fault Refusal :=
  if memorySize = 0 ∨ Config.memSizeMax < memorySize then .refused .memorySizeOutOfRange
  else
    match wordsOfBytes programBytes with
    | none => .refused .oddProgramLength
    | some words =>
      .next
        { State.reset with
          memSize := memorySize
          stackCap := stackCap
          mem := imageMemory memorySize words
          blueprint := imageMemory memorySize words }

/-- `reset()` (R210): valid from any state; `BLUEPRINT`, the parameters, `BP`, `INQ`, `OUTPUT` and `DIAG` are kept. -/
def hostReset (s : State) : State :=
  { s with
    mem := s.blueprint
    regs := Vector.replicate 8 0
    stack := []
    pc := 0
    execState := .idle
    haltCause := none
    faultCause := none
    stop := false
    pause := false
    pauseCause := none
    bpSkip := false }

/-- `pause()` (R154). -/
def hostPause (s : State) : State := s.raisePause .host

/-- `unpause()`, also `resume()` (R154): the "explicit external continue" of a breakpoint too (R158). -/
def hostUnpause (s : State) : State := s.clearPause

/-- `stop()`, also the operating system's interrupt (R155, R156). -/
def hostStop (s : State) : State := s.raiseStop

/-- The insertion of an address in a strictly rising list, "idempotent insertion into a set" (R35, R158). -/
def insertAddress (addr : Nat) : List Nat → List Nat
  | [] => [addr]
  | a :: rest => if addr < a then addr :: a :: rest else if addr = a then a :: rest else a :: insertAddress addr rest

/-- `add_breakpoint(address)` (R158): any natural number; there is no removal (D34). -/
def hostAddBreakpoint (addr : Nat) (s : State) : State := { s with bp := insertAddress addr s.bp }

/-- `insert_input(text)`, the text already turned into bytes by the host (R161, D27). -/
def hostInsertInput (text : List Byte) (s : State) : State := { s with inq := s.inq ++ text }

/-- `is_stopped()` (R157, D23): it reads and changes nothing. -/
def hostIsStopped (s : State) : Bool := s.stop || s.execState.terminal

/-- A host operation that acts on an engine that exists (R163). `step` and `run` are step attempts (R152, R153);
`is_stopped` and the reading of `OUTPUT` and `DIAG` change nothing. -/
inductive HostOp where
  | reset
  | pause
  | unpause
  | stop
  | addBreakpoint (addr : Nat)
  | insertInput (text : List Byte)
  deriving DecidableEq, Repr

/-- The atomic transition of a host operation (R11, R163). -/
def applyHostOp (op : HostOp) (s : State) : State :=
  match op with
  | .reset => hostReset s
  | .pause => hostPause s
  | .unpause => hostUnpause s
  | .stop => hostStop s
  | .addBreakpoint addr => hostAddBreakpoint addr s
  | .insertInput text => hostInsertInput text s

/-- The bytes a host operation puts in `INQ` (R161): those of `insert_input`, none otherwise. -/
def HostOp.inserted : HostOp → List Byte
  | .reset | .pause | .unpause | .stop | .addBreakpoint _ => []
  | .insertInput text => text

/-- What happens next to the block: a step attempt of the engine, or an operation of the host (R10, R11). -/
inductive Event where
  | attempt
  | host (op : HostOp)
  deriving DecidableEq, Repr

/-- The transition of one event (R11). -/
def react (e : Event) (s : State) : Host.Outcome State Fault Refusal :=
  match e with
  | .attempt => step s
  | .host op => .next (applyHostOp op s)

/-- A whole interleaving of step attempts and host operations, in any order the host and the run loop give them (R152,
R164). -/
def runEvents : List Event → State → Host.Outcome State Fault Refusal
  | [], s => .next s
  | e :: es, s =>
    match react e s with
    | .next t => runEvents es t
    | .fault r => .fault r
    | .refused r => .refused r

/-- The bytes put in `INQ` by an event (R161). -/
def Event.inserted : Event → List Byte
  | .attempt => []
  | .host op => op.inserted

/-- The bytes an event takes from `INQ`: host operations take none (R62, R163). -/
def Event.taken (e : Event) (s : State) : List Byte :=
  match e with
  | .attempt => s.byteTaken
  | .host _ => []

/-- "the sequence of bytes IN instructions consume" (R62) along an interleaving, in order. -/
def bytesTaken : List Event → State → List Byte
  | [], _ => []
  | e :: es, s =>
    e.taken s ++
      match react e s with
      | .next t => bytesTaken es t
      | .fault _ => []
      | .refused _ => []

/-- `run()` with no host operation meanwhile, followed for `n` attempts: "nothing but repeated step attempts" (R150, R152).
Past a terminal state attempts change nothing (R151 line 1). With host operations it is `runEvents`. -/
def runAttempts (n : Nat) (s : State) : Host.Outcome State Fault Refusal := runEvents (List.replicate n .attempt) s

end Sys2Proof.Machine
end

