-- ==== Sys2Proof/Safety.lean ====
section
/-! DEFINITION. The terms claims about runs use: the invariant of the machine's states, which bits of state a program can
reach, and what a debugger adds. -/

namespace Sys2Proof.Machine

/-- The state relations that construction establishes and every step attempt and host operation keeps. States without
them are states no run reaches. -/
structure State.Inv (s : State) : Prop where
  /-- `1 <= MEM_SIZE <= 65536` (R7) -/
  memSize_pos : 0 < s.memSize
  memSize_le : s.memSize ≤ Config.memSizeMax
  /-- live memory is in canonical form and holds cells of `[0, MEM_SIZE)` only (R29, R57) -/
  mem_wf : s.mem.wf = true
  mem_below : s.mem.below s.memSize = true
  /-- the blueprint likewise (R29) -/
  blueprint_wf : s.blueprint.wf = true
  blueprint_below : s.blueprint.below s.memSize = true
  /-- the pc is in `[0, MEM_SIZE]` (R24) -/
  pc_le : s.pc ≤ s.memSize
  /-- `depth` never exceeds a finite `STACK_CAP` (R8, R28, R190) -/
  depth_le : ∀ cap, s.stackCap = some cap → s.depth ≤ cap
  /-- `HALT_CAUSE` is `None` exactly when the engine is not halted (R31) -/
  halt_cause : s.execState = .halted ↔ s.haltCause ≠ none
  /-- `FAULT_CAUSE` is `None` exactly when the engine is not faulted (R32) -/
  fault_cause : s.execState = .faulted ↔ s.faultCause ≠ none
  /-- `PAUSE_CAUSE` is `None` exactly when `PAUSE = 0` (R34) -/
  pause_cause : s.pause = true ↔ s.pauseCause ≠ none
  /-- `BP` is a set: strictly rising (R35) -/
  bp_rising : s.bp.Pairwise (· < ·)
  /-- `BPSKIP` is set only while the pc is at a breakpoint (R36) -/
  skip_at_breakpoint : s.bpSkip = true → s.pc ∈ s.bp

/-- The state with everything erased that no instruction reads: the host's two request flags, the breakpoint unit, the
diagnostic stream and the blueprint (R199, R202). Two states with equal erasures look the same to a program. -/
def State.programView (s : State) : State :=
  { s with
    blueprint := []
    stop := false
    pause := false
    pauseCause := none
    bp := []
    bpSkip := false
    diag := [] }

/-- A run that faulted, "never a result a claim about the program's outcome may rest on" (R165). -/
def State.abnormalEnd (s : State) : Bool := decide (s.execState = .faulted)

/-- The only normal end of a run (R165). -/
def State.normalEnd (s : State) : Bool := decide (s.execState = .halted)

end Sys2Proof.Machine
end

