-- ==== Sys2Proof/Certificates/Slice0/Obligations.lean ====
section
/-! DEFINITION. The statements for the provers, from the numbered rules of spec/. `s.raise c` is the taking of a fatal
fault and `s.invalidDestination a n` the reported no-op; what they do is itself stated (FaultIsRecordedPrecisely,
InvalidDestinationIsReportedNoOp). A next state is written as the present one with the fields that change, so each such
statement is also the instruction's frame: every field not named keeps its value. Where a clause follows a choice the spec
marks as its own, the docstring names the decision D<n> of spec/92_eei_decisions.md. -/

open Sys2Proof Sys2Proof.Machine

/-! ## Encoding and decoding -/

/-- Words written out from the opcode map R75, the formats R70 and the operand words R72 decode to the instructions they
stand for: at least one of every family. The numbers other than 0, 19 and 21 are recovered by the spec (R76; log entry
13). -/
def Obligations.SpecWordsDecodeToTheirInstructions : Prop :=
  decodeWords [0] = .instr .halt [] ∧
  decodeWords [1, 32768, 65] = .instr (.set 32768 65) [] ∧
  decodeWords [2, 72, 3] = .instr (.push 72) [3] ∧
  decodeWords [5, 32770, 32768, 32767] = .instr (.gt 32770 32768 32767) [] ∧
  decodeWords [9, 32768, 32768, 1] = .instr (.add 32768 32768 1) [] ∧
  decodeWords [14, 32771, 32768] = .instr (.not 32771 32768) [] ∧
  decodeWords [15, 32770, 100] = .instr (.rmem 32770 100) [] ∧
  decodeWords [16, 100, 32769] = .instr (.wmem 100 32769) [] ∧
  decodeWords [7, 32768, 6] = .instr (.jt 32768 6) [] ∧
  decodeWords [17, 6] = .instr (.call 6) [] ∧
  decodeWords [18] = .instr .ret [] ∧
  decodeWords [19, 65] = .instr (.out 65) [] ∧
  decodeWords [20, 32768] = .instr (.in_ 32768) [] ∧
  decodeWords [21] = .instr .noop [] ∧
  decodeTableWord 48 0x004180000001 = some (.set 32768 65)

/-- Decode and encode agree: words decode to an instruction, leaving `rest`, exactly when they are that instruction's words
followed by `rest`, with every operand at every value a Word has (R70, R71, R74, R75). So every instruction decodes back
from its encoding, and no other words stand for it: no encoding "executes as another instruction" (R78). -/
def Obligations.DecodeAndEncodeAgree : Prop :=
  ∀ (ws rest : List Word) (i : Instr), decodeWords ws = .instr i rest ↔ ws = encode i ++ rest

/-- R74, `decode(memory, pc)`: an opcode above 21 is `UnknownOpcode`; a cut-off instruction is `OperandFetchOutOfRange`
with `pc + n` (decision D7); otherwise the opcode's instruction with the words that follow. -/
def Obligations.DecodeAtReadsOpcodeThenOperands : Prop :=
  ∀ (s : State) (addr : Nat) (op : Word), s.memRead addr = some op →
    (21 < op.toNat → s.decodeAt addr = .fault (.unknownOpcode op)) ∧
    (∀ i : Instr, i.opcode = op → s.memSize - 1 < addr + i.operands.length →
      s.decodeAt addr = .fault (.operandFetchOutOfRange (addr + i.operands.length))) ∧
    (∀ i : Instr, i.opcode = op → (∀ k, k < i.operands.length → s.memRead (addr + 1 + k) = i.operands[k]?) →
      s.decodeAt addr = .instr i)

/-- R78: an opcode word above 21 is no instruction; the engine that fetches it takes the fault `UnknownOpcode`. -/
def Obligations.UnknownOpcodeFaults : Prop :=
  ∀ (op : Word), 21 < op.toNat →
    (∀ rest : List Word, decodeWords (op :: rest) = .error (.unknownOpcode op)) ∧
    (∀ s : State, s.execState.terminal = false → s.stop = false → s.pause = false →
      ¬(s.pc ∈ s.bp ∧ s.bpSkip = false) → s.memRead s.pc = some op →
      step s = .next ({ s with execState := .running }.raise (.unknownOpcode op)))

/-! ## Operands, registers, memory -/

/-- R91, `rd`: a literal gives itself, a register reference the register's full Word, a malformed word raises
`MalformedOperand`. That it is a fault is the spec's choice D5 (R92, log entry 18). -/
def Obligations.SourceResolvesByItsClass : Prop :=
  ∀ (s : State) (w : Word),
    (w.toNat ≤ 32767 → rd s w = some w) ∧
    (∀ r : Fin 8, w.toNat = 32768 + r.val → rd s w = some s.regs[r]) ∧
    (32776 ≤ w.toNat → rd s w = none ∧ ∀ k, withRd w s k = s.raise (.malformedOperand w))

/-- R72 and R93, `dst`: exactly the words 32768 to 32775 name a register; a literal and a malformed word (65535 included,
decision D4) are invalid as a destination. -/
def Obligations.DestinationResolvesByItsClass : Prop :=
  ∀ (w : Word),
    (w.toNat ≤ 32767 → classify w = .literal w ∧ dst w = none) ∧
    (∀ r : Fin 8, w.toNat = 32768 + r.val → classify w = .register r ∧ dst w = some r) ∧
    (32776 ≤ w.toNat → classify w = .malformed ∧ dst w = none)

/-- A well-formed instruction (R72, R73) neither takes `MalformedOperand` nor is an invalid-destination no-op. -/
def Obligations.WellFormedInstructionsResolveTheirOperands : Prop :=
  ∀ (i : Instr) (s t : State), i.wf = true → s.faultCause = none → exec i s = .next t →
    (∀ w, t.faultCause ≠ some (.malformedOperand w)) ∧
    (∀ w, t.diag ≠ s.diag ++ [s.record (.operandAddressError w)])

/-- R14, R20: a written register reads back, and no other register changes: there are no aliases and no hardwired
register. -/
def Obligations.RegisterReadsBackWhatWasWritten : Prop :=
  ∀ (s : State) (r q : Fin 8) (v : Word), (s.setReg r v).regs[q] = if q = r then v else s.regs[q]

/-- R50: `MemRead` and `MemWrite` act on one whole cell and on no other, for exactly the addresses below `MEM_SIZE`. -/
def Obligations.MemoryWriteChangesOneCell : Prop :=
  ∀ (s : State) (addr : Nat) (v : Word), s.mem.wf = true →
    (addr < s.memSize → ∃ t, s.memWrite addr v = some t ∧ t.memRead addr = some v ∧
      (∀ x, x ≠ addr → t.memRead x = s.memRead x) ∧ t.mem.wf = true) ∧
    (s.memSize ≤ addr → s.memWrite addr v = none ∧ s.memRead addr = none)

/-- The canonical form makes memories that read alike equal as data. -/
def Obligations.MemoriesThatReadAlikeAreEqual : Prop :=
  ∀ (m m' : Memory), m.wf = true → m'.wf = true → (∀ addr, m.read addr = m'.read addr) → m = m'

/-! ## Data movement -/

/-- R100, SET. The fault of a malformed source is the spec's choice D5 (R92, log entry 18), the no-op of an invalid
destination and its being tested first D17 and D15 (R94, log entry 9), `BPSKIP` cleared D19 (R159, log entry 12). -/
def Obligations.SetCopiesSourceToRegister : Prop :=
  ∀ (s : State) (a b : Word),
    encode (.set a b) = [1, a, b] ∧
    (dst a = none → exec (.set a b) s = .next (s.invalidDestination a 3)) ∧
    (∀ r, dst a = some r → rd s b = none → exec (.set a b) s = .next (s.raise (.malformedOperand b))) ∧
    (∀ r v, dst a = some r → rd s b = some v →
      exec (.set a b) s = .next { s with regs := s.regs.set r v, pc := s.pc + 3, bpSkip := false })

/-- R101, PUSH. The fault of a push on a full finite stack is the spec's choice D10 (R190, log entry 7). The fault of a
malformed source is the spec's choice D5 (R92, log entry 18), `BPSKIP` cleared D19 (R159, log entry 12). -/
def Obligations.PushAppendsToStack : Prop :=
  ∀ (s : State) (a : Word),
    encode (.push a) = [2, a] ∧
    (rd s a = none → exec (.push a) s = .next (s.raise (.malformedOperand a))) ∧
    (∀ v, rd s a = some v → s.stackCap = some s.stack.length →
      exec (.push a) s = .next (s.raise (.stackOverflow s.stack.length))) ∧
    (∀ v, rd s a = some v → s.stackCap ≠ some s.stack.length →
      exec (.push a) s = .next { s with stack := s.stack ++ [v], pc := s.pc + 2, bpSkip := false })

/-- R102, POP. The no-op of an invalid destination and its being tested first are the spec's choices D17 and D15 (R94, log
entry 9), `BPSKIP` cleared D19 (R159, log entry 12). -/
def Obligations.PopMovesTopToRegister : Prop :=
  ∀ (s : State) (a : Word),
    encode (.pop a) = [3, a] ∧
    (dst a = none → exec (.pop a) s = .next (s.invalidDestination a 2)) ∧
    (∀ r, dst a = some r → s.stack = [] → exec (.pop a) s = .next (s.raise .stackUnderflow)) ∧
    (∀ r v rest, dst a = some r → s.stack = rest ++ [v] →
      exec (.pop a) s = .next { s with regs := s.regs.set r v, stack := rest, pc := s.pc + 2, bpSkip := false })

/-- R103 and R104, RMEM and WMEM. An address at or above `MEM_SIZE` is the fault of decision D8. WMEM stores to the cell
its resolved operand `a` names: that cell reads as the value after, every other cell as before. The fault of a malformed
source is the spec's choice D5 (R92, log entry 18), the no-op of an invalid destination and its being tested first D17 and
D15 (R94, log entry 9), `BPSKIP` cleared D19 (R159, log entry 12). -/
def Obligations.MemoryInstructionsMoveOneWord : Prop :=
  ∀ (s : State) (a b : Word),
    (encode (.rmem a b) = [15, a, b] ∧
      (dst a = none → exec (.rmem a b) s = .next (s.invalidDestination a 3)) ∧
      (∀ r, dst a = some r → rd s b = none → exec (.rmem a b) s = .next (s.raise (.malformedOperand b))) ∧
      (∀ r addr, dst a = some r → rd s b = some addr → s.memSize ≤ addr.toNat →
        exec (.rmem a b) s = .next (s.raise (.memoryAddressOutOfRange addr))) ∧
      (∀ r addr v, dst a = some r → rd s b = some addr → s.memRead addr.toNat = some v →
        exec (.rmem a b) s = .next { s with regs := s.regs.set r v, pc := s.pc + 3, bpSkip := false })) ∧
    (encode (.wmem a b) = [16, a, b] ∧
      (rd s a = none → exec (.wmem a b) s = .next (s.raise (.malformedOperand a))) ∧
      (∀ addr, rd s a = some addr → rd s b = none → exec (.wmem a b) s = .next (s.raise (.malformedOperand b))) ∧
      (∀ addr v, rd s a = some addr → rd s b = some v → s.memSize ≤ addr.toNat →
        exec (.wmem a b) s = .next (s.raise (.memoryAddressOutOfRange addr))) ∧
      (∀ addr v, rd s a = some addr → rd s b = some v → addr.toNat < s.memSize →
        ∃ m, exec (.wmem a b) s = .next { s with mem := m, pc := s.pc + 3, bpSkip := false } ∧
          (∀ x, x ≠ addr.toNat → m.read x = s.mem.read x) ∧
          (s.mem.wf = true → m.read addr.toNat = v ∧ m.wf = true)))

/-! ## Comparison, arithmetic, logic -/

/-- R111, EQ: all 16 bits are compared. The fault of a malformed source is the spec's choice D5 (R92, log entry 18), the
no-op of an invalid destination and its being tested first D17 and D15 (R94, log entry 9), `BPSKIP` cleared D19 (R159, log
entry 12). -/
def Obligations.EqWritesOneOrZero : Prop :=
  ∀ (s : State) (a b c : Word),
    encode (.eq a b c) = [4, a, b, c] ∧
    (dst a = none → exec (.eq a b c) s = .next (s.invalidDestination a 4)) ∧
    (∀ r, dst a = some r → rd s b = none → exec (.eq a b c) s = .next (s.raise (.malformedOperand b))) ∧
    (∀ r vb, dst a = some r → rd s b = some vb → rd s c = none →
      exec (.eq a b c) s = .next (s.raise (.malformedOperand c))) ∧
    (∀ r vb vc, dst a = some r → rd s b = some vb → rd s c = some vc →
      exec (.eq a b c) s =
        .next { s with regs := s.regs.set r (if vb = vc then 1 else 0), pc := s.pc + 4, bpSkip := false })

/-- R112, GT: an unsigned comparison (decision D31, log entry 24). The fault of a malformed source is the spec's choice D5
(R92, log entry 18), the no-op of an invalid destination and its being tested first D17 and D15 (R94, log entry 9),
`BPSKIP` cleared D19 (R159, log entry 12). -/
def Obligations.GtComparesUnsigned : Prop :=
  ∀ (s : State) (a b c : Word),
    encode (.gt a b c) = [5, a, b, c] ∧
    (dst a = none → exec (.gt a b c) s = .next (s.invalidDestination a 4)) ∧
    (∀ r, dst a = some r → rd s b = none → exec (.gt a b c) s = .next (s.raise (.malformedOperand b))) ∧
    (∀ r vb, dst a = some r → rd s b = some vb → rd s c = none →
      exec (.gt a b c) s = .next (s.raise (.malformedOperand c))) ∧
    (∀ r vb vc, dst a = some r → rd s b = some vb → rd s c = some vc →
      exec (.gt a b c) s =
        .next { s with regs := s.regs.set r (if vb.toNat > vc.toNat then 1 else 0), pc := s.pc + 4, bpSkip := false })

/-- R113 and R114, ADD and MULT: the exact sum and product, reduced modulo 32768. The fault of a malformed source is the
spec's choice D5 (R92, log entry 18), the no-op of an invalid destination and its being tested first D17 and D15 (R94, log
entry 9), `BPSKIP` cleared D19 (R159, log entry 12). -/
def Obligations.AddAndMultReduceExactResult : Prop :=
  ∀ (s : State) (a b c : Word),
    (encode (.add a b c) = [9, a, b, c] ∧
      (dst a = none → exec (.add a b c) s = .next (s.invalidDestination a 4)) ∧
      (∀ r, dst a = some r → rd s b = none → exec (.add a b c) s = .next (s.raise (.malformedOperand b))) ∧
      (∀ r vb, dst a = some r → rd s b = some vb → rd s c = none →
        exec (.add a b c) s = .next (s.raise (.malformedOperand c))) ∧
      (∀ r vb vc, dst a = some r → rd s b = some vb → rd s c = some vc →
        ∃ v : Word, v.toNat = (vb.toNat + vc.toNat) % 32768 ∧
          exec (.add a b c) s = .next { s with regs := s.regs.set r v, pc := s.pc + 4, bpSkip := false })) ∧
    (encode (.mult a b c) = [10, a, b, c] ∧
      (dst a = none → exec (.mult a b c) s = .next (s.invalidDestination a 4)) ∧
      (∀ r, dst a = some r → rd s b = none → exec (.mult a b c) s = .next (s.raise (.malformedOperand b))) ∧
      (∀ r vb, dst a = some r → rd s b = some vb → rd s c = none →
        exec (.mult a b c) s = .next (s.raise (.malformedOperand c))) ∧
      (∀ r vb vc, dst a = some r → rd s b = some vb → rd s c = some vc →
        ∃ v : Word, v.toNat = (vb.toNat * vc.toNat) % 32768 ∧
          exec (.mult a b c) s = .next { s with regs := s.regs.set r v, pc := s.pc + 4, bpSkip := false }))

/-- R115, MOD: the unsigned remainder, reduced; a zero divisor is the fault of decision D9, tested after both sources. The
fault of a malformed source is the spec's choice D5 (R92, log entry 18), the no-op of an invalid destination and its being
tested first D17 and D15 (R94, log entry 9), `BPSKIP` cleared D19 (R159, log entry 12). -/
def Obligations.ModGivesReducedRemainder : Prop :=
  ∀ (s : State) (a b c : Word),
    encode (.mod a b c) = [11, a, b, c] ∧
    (dst a = none → exec (.mod a b c) s = .next (s.invalidDestination a 4)) ∧
    (∀ r, dst a = some r → rd s b = none → exec (.mod a b c) s = .next (s.raise (.malformedOperand b))) ∧
    (∀ r vb, dst a = some r → rd s b = some vb → rd s c = none →
      exec (.mod a b c) s = .next (s.raise (.malformedOperand c))) ∧
    (∀ r vb, dst a = some r → rd s b = some vb → rd s c = some 0 →
      exec (.mod a b c) s = .next (s.raise (.moduloByZero vb))) ∧
    (∀ r vb vc, dst a = some r → rd s b = some vb → rd s c = some vc → vc ≠ 0 →
      ∃ v : Word, v.toNat = (vb.toNat % vc.toNat) % 32768 ∧
        exec (.mod a b c) s = .next { s with regs := s.regs.set r v, pc := s.pc + 4, bpSkip := false })

/-- R116 and R117, AND and OR: bits 14:0 of the bitwise result. The fault of a malformed source is the spec's choice D5
(R92, log entry 18), the no-op of an invalid destination and its being tested first D17 and D15 (R94, log entry 9),
`BPSKIP` cleared D19 (R159, log entry 12). -/
def Obligations.AndAndOrKeepFifteenBits : Prop :=
  ∀ (s : State) (a b c : Word),
    (encode (.and a b c) = [12, a, b, c] ∧
      (dst a = none → exec (.and a b c) s = .next (s.invalidDestination a 4)) ∧
      (∀ r, dst a = some r → rd s b = none → exec (.and a b c) s = .next (s.raise (.malformedOperand b))) ∧
      (∀ r vb, dst a = some r → rd s b = some vb → rd s c = none →
        exec (.and a b c) s = .next (s.raise (.malformedOperand c))) ∧
      (∀ r vb vc, dst a = some r → rd s b = some vb → rd s c = some vc →
        exec (.and a b c) s =
          .next { s with regs := s.regs.set r (vb &&& vc &&& 0x7FFF), pc := s.pc + 4, bpSkip := false })) ∧
    (encode (.or a b c) = [13, a, b, c] ∧
      (dst a = none → exec (.or a b c) s = .next (s.invalidDestination a 4)) ∧
      (∀ r, dst a = some r → rd s b = none → exec (.or a b c) s = .next (s.raise (.malformedOperand b))) ∧
      (∀ r vb, dst a = some r → rd s b = some vb → rd s c = none →
        exec (.or a b c) s = .next (s.raise (.malformedOperand c))) ∧
      (∀ r vb vc, dst a = some r → rd s b = some vb → rd s c = some vc →
        exec (.or a b c) s =
          .next { s with regs := s.regs.set r ((vb ||| vc) &&& 0x7FFF), pc := s.pc + 4, bpSkip := false }))

/-- R118, NOT: the 15-bit complement, `32767 - (vb mod 32768)`. The fault of a malformed source is the spec's choice D5
(R92, log entry 18), the no-op of an invalid destination and its being tested first D17 and D15 (R94, log entry 9),
`BPSKIP` cleared D19 (R159, log entry 12). -/
def Obligations.NotComplementsFifteenBits : Prop :=
  ∀ (s : State) (a b : Word),
    encode (.not a b) = [14, a, b] ∧
    (dst a = none → exec (.not a b) s = .next (s.invalidDestination a 3)) ∧
    (∀ r, dst a = some r → rd s b = none → exec (.not a b) s = .next (s.raise (.malformedOperand b))) ∧
    (∀ r vb, dst a = some r → rd s b = some vb →
      ∃ v : Word, v.toNat = 32767 - vb.toNat % 32768 ∧
        exec (.not a b) s = .next { s with regs := s.regs.set r v, pc := s.pc + 3, bpSkip := false })

/-- R119: "After ADD, MULT, MOD, AND, OR or NOT completes, the destination register is in [0, 32767], whatever the
operands … After EQ or GT it is 0 or 1." -/
def Obligations.ArithmeticResultsAreReduced : Prop :=
  ∀ (s t : State) (a b c : Word) (r : Fin 8), dst a = some r → t.execState ≠ .faulted →
    (exec (.add a b c) s = .next t ∨ exec (.mult a b c) s = .next t ∨ exec (.mod a b c) s = .next t ∨
      exec (.and a b c) s = .next t ∨ exec (.or a b c) s = .next t ∨ exec (.not a b) s = .next t →
      t.regs[r].toNat ≤ 32767) ∧
    (exec (.eq a b c) s = .next t ∨ exec (.gt a b c) s = .next t → t.regs[r] = 0 ∨ t.regs[r] = 1)

/-! ## Control transfer -/

/-- R130, JMP. The fault of a malformed source is the spec's choice D5 (R92, log entry 18), `BPSKIP` cleared D19 (R159,
log entry 12). -/
def Obligations.JmpGoesToAbsoluteTarget : Prop :=
  ∀ (s : State) (a : Word),
    encode (.jmp a) = [6, a] ∧
    (rd s a = none → exec (.jmp a) s = .next (s.raise (.malformedOperand a))) ∧
    (∀ t, rd s a = some t → s.memSize ≤ t.toNat → exec (.jmp a) s = .next (s.raise (.pcOutOfRange t))) ∧
    (∀ t, rd s a = some t → t.toNat < s.memSize →
      exec (.jmp a) s = .next { s with pc := t.toNat, bpSkip := false })

/-- R131 and R132, JT and JF: both sources are resolved, taken or not (decision D16); the target's range is tested only
when the jump is taken. The fault of a malformed source is the spec's choice D5 (R92, log entry 18), `BPSKIP` cleared D19
(R159, log entry 12). -/
def Obligations.ConditionalJumpsTestTheirCondition : Prop :=
  ∀ (s : State) (a b : Word),
    (encode (.jt a b) = [7, a, b] ∧
      (rd s a = none → exec (.jt a b) s = .next (s.raise (.malformedOperand a))) ∧
      (∀ va, rd s a = some va → rd s b = none → exec (.jt a b) s = .next (s.raise (.malformedOperand b))) ∧
      (∀ t, rd s a = some 0 → rd s b = some t → exec (.jt a b) s = .next { s with pc := s.pc + 3, bpSkip := false }) ∧
      (∀ va t, rd s a = some va → va ≠ 0 → rd s b = some t → s.memSize ≤ t.toNat →
        exec (.jt a b) s = .next (s.raise (.pcOutOfRange t))) ∧
      (∀ va t, rd s a = some va → va ≠ 0 → rd s b = some t → t.toNat < s.memSize →
        exec (.jt a b) s = .next { s with pc := t.toNat, bpSkip := false })) ∧
    (encode (.jf a b) = [8, a, b] ∧
      (rd s a = none → exec (.jf a b) s = .next (s.raise (.malformedOperand a))) ∧
      (∀ va, rd s a = some va → rd s b = none → exec (.jf a b) s = .next (s.raise (.malformedOperand b))) ∧
      (∀ va t, rd s a = some va → va ≠ 0 → rd s b = some t →
        exec (.jf a b) s = .next { s with pc := s.pc + 3, bpSkip := false }) ∧
      (∀ t, rd s a = some 0 → rd s b = some t → s.memSize ≤ t.toNat →
        exec (.jf a b) s = .next (s.raise (.pcOutOfRange t))) ∧
      (∀ t, rd s a = some 0 → rd s b = some t → t.toNat < s.memSize →
        exec (.jf a b) s = .next { s with pc := t.toNat, bpSkip := false }))

/-- R133, CALL, with its tests in the rule's order, all before the push (decisions D10, D11, D13, D15). The fault of a
malformed source is the spec's choice D5 (R92, log entry 18), `BPSKIP` cleared D19 (R159, log entry 12). -/
def Obligations.CallPushesReturnAddress : Prop :=
  ∀ (s : State) (a : Word),
    encode (.call a) = [17, a] ∧
    (rd s a = none → exec (.call a) s = .next (s.raise (.malformedOperand a))) ∧
    (∀ t, rd s a = some t → s.memSize ≤ t.toNat → exec (.call a) s = .next (s.raise (.pcOutOfRange t))) ∧
    (∀ t, rd s a = some t → t.toNat < s.memSize → 65535 < s.pc + 2 →
      exec (.call a) s = .next (s.raise (.returnAddressOverflow (s.pc + 2)))) ∧
    (∀ t, rd s a = some t → t.toNat < s.memSize → s.pc + 2 ≤ 65535 → s.stackCap = some s.stack.length →
      exec (.call a) s = .next (s.raise (.stackOverflow s.stack.length))) ∧
    (∀ t, rd s a = some t → t.toNat < s.memSize → s.pc + 2 ≤ 65535 → s.stackCap ≠ some s.stack.length →
      ∃ ret : Word, ret.toNat = s.pc + 2 ∧
        exec (.call a) s = .next { s with stack := s.stack ++ [ret], pc := t.toNat, bpSkip := false })

/-- R134, RET: the popped Word is an address as it stands; an empty stack is a benign halt with the pc unchanged (decision
D14); a bad target leaves the stack as it was (decision D13). `BPSKIP` cleared is D19 (log entry 12). -/
def Obligations.RetPopsThePc : Prop :=
  ∀ (s : State),
    encode .ret = [18] ∧
    (s.stack = [] → exec .ret s =
      .next { s with execState := .halted, haltCause := some .retEmptyStack, bpSkip := false }) ∧
    (∀ rest t, s.stack = rest ++ [t] → s.memSize ≤ t.toNat → exec .ret s = .next (s.raise (.pcOutOfRange t))) ∧
    (∀ rest t, s.stack = rest ++ [t] → t.toNat < s.memSize →
      exec .ret s = .next { s with stack := rest, pc := t.toNat, bpSkip := false })

/-- R133: "CALL then RET returns PC to exactly `call_site + call_instruction_width`": a RET that finds the stack as a
completed CALL left it, whatever ran between, comes back past the CALL with the stack as it was before. -/
def Obligations.RetReturnsPastItsCall : Prop :=
  ∀ (s t u : State) (a : Word), exec (.call a) s = .next t → t.execState ≠ .faulted → s.pc + 2 < s.memSize →
    u.stack = t.stack → u.memSize = s.memSize →
    exec .ret u = .next { u with stack := s.stack, pc := s.pc + 2, bpSkip := false }

/-! ## System and input/output -/

/-- R140, HALT: "zero side effects"; the pc stays at the HALT (decision D14). `BPSKIP` cleared is D19 (log entry 12). -/
def Obligations.HaltStopsWithNoSideEffect : Prop :=
  ∀ (s : State), encode .halt = [0] ∧
    exec .halt s = .next { s with execState := .halted, haltCause := some .haltInstruction, bpSkip := false }

/-- R141, NOOP. `BPSKIP` cleared is the spec's choice D19 (R159, log entry 12). -/
def Obligations.NoopAdvancesThePc : Prop :=
  ∀ (s : State), encode .noop = [21] ∧ exec .noop s = .next { s with pc := s.pc + 1, bpSkip := false }

/-- R142, OUT. The fault of a malformed source is the spec's choice D5 (R92, log entry 18), `BPSKIP` cleared D19 (R159,
log entry 12). -/
def Obligations.OutEmitsOneByte : Prop :=
  ∀ (s : State) (a : Word),
    encode (.out a) = [19, a] ∧
    (rd s a = none → exec (.out a) s = .next (s.raise (.malformedOperand a))) ∧
    (∀ v, rd s a = some v → 255 < v.toNat → exec (.out a) s = .next (s.raise (.ioValueError v))) ∧
    (∀ v, rd s a = some v → v.toNat ≤ 255 →
      ∃ byte : Byte, byte.toNat = v.toNat ∧
        exec (.out a) s = .next { s with output := s.output ++ [byte], pc := s.pc + 2, bpSkip := false })

/-- R143, IN, with the stall of R144: on an empty queue the instruction changes nothing (decision D28, log entry 23). The
no-op of an invalid destination and its being tested first are the spec's choices D17 and D15 (R94, log entry 9), `BPSKIP`
cleared D19 (R159, log entry 12). -/
def Obligations.InConsumesOneByte : Prop :=
  ∀ (s : State) (a : Word),
    encode (.in_ a) = [20, a] ∧
    (dst a = none → exec (.in_ a) s = .next (s.invalidDestination a 2)) ∧
    (∀ r, dst a = some r → s.inq = [] → exec (.in_ a) s = .next s) ∧
    (∀ r byte rest, dst a = some r → s.inq = byte :: rest →
      ∃ v : Word, v.toNat = byte.toNat ∧
        exec (.in_ a) s = .next { s with regs := s.regs.set r v, inq := rest, pc := s.pc + 2, bpSkip := false })

/-- R43, R144: while the engine waits for input every attempt changes nothing (decision D28), a stop request and a pause
request are honoured, and inserted input completes the IN. -/
def Obligations.StalledInWaitsForTheHost : Prop :=
  ∀ (s : State), s.waitingForInput = true → s.stop = false → s.pause = false →
    ¬(s.pc ∈ s.bp ∧ s.bpSkip = false) →
    step s = .next s ∧ attemptOutcome s = some .stalled ∧
    step (hostStop s) = .next { s with stop := true, execState := .stopped } ∧
    step (hostPause s) = .next { s with pause := true, pauseCause := some .host, execState := .paused } ∧
    (∀ (byte : Byte) (text : List Byte), ∃ (a : Word) (r : Fin 8) (v : Word),
      s.decodeAt s.pc = .instr (.in_ a) ∧ dst a = some r ∧ v.toNat = byte.toNat ∧
      step (hostInsertInput (byte :: text) s) =
        .next { s with regs := s.regs.set r v, inq := text, pc := s.pc + 2, bpSkip := false })

/-! ## Faults and no-ops -/

/-- R194, R180: what raising a fatal cause does and leaves (decisions D13, D24), and what its record holds (R38, R160).
The codes of R180 are labels (decision D26), `causeCode`. -/
def Obligations.FaultIsRecordedPrecisely : Prop :=
  ∀ (s : State) (cause : FaultCause),
    (∃ rec : DiagRecord,
      s.raise cause =
        { s with faultCause := some cause, execState := .faulted, diag := s.diag ++ [rec], bpSkip := false } ∧
      rec.kind = .fatal cause ∧ rec.pc = s.pc ∧ rec.registers = s.regs ∧ rec.stack = s.stack ∧
      rec.word = s.memRead s.pc ∧ (∀ i, rec.instruction = some i ↔ s.decodeAt s.pc = .instr i))

/-- R94: an instruction whose destination is invalid is reported and skipped, and nothing else happens, whatever its
other operands (decisions D15, D17); the twelve instructions with a destination (R95). -/
def Obligations.InvalidDestinationIsReportedNoOp : Prop :=
  ∀ (i : Instr) (s : State) (a : Word), i.destination = some a → dst a = none →
    exec i s =
      .next { s with diag := s.diag ++ [s.record (.operandAddressError a)], pc := s.pc + i.width, bpSkip := false }

/-- R194, R192: an instruction that ends the run changes nothing but the fault entry's or the halt's own fields. -/
def Obligations.EndingInstructionsChangeNothingElse : Prop :=
  ∀ (i : Instr) (s t : State), s.execState = .running → exec i s = .next t →
    (t.execState = .faulted → ∃ cause, t = s.raise cause) ∧
    (t.execState = .halted → ∃ cause,
      t = { s with execState := .halted, haltCause := some cause, bpSkip := false } ∧
      ((i = .halt ∧ cause = .haltInstruction) ∨ (i = .ret ∧ s.stack = [] ∧ cause = .retEmptyStack)))

/-- R195: a faulted engine stays as it is through every attempt and every host operation but `reset()`, `FAULT_CAUSE` is
never overwritten, and `reset()` restarts the program from the blueprint at pc 0 with the record kept. Idle after
`reset()` is R210; that it clears the cause and keeps `DIAG` is the spec's choice D21 too (log entry 10). -/
def Obligations.FaultedEngineStaysUntilReset : Prop :=
  ∀ (s : State), s.execState = .faulted →
    (∀ es : List Event, Event.host .reset ∉ es → ∃ t, runEvents es s = .next t ∧ t.execState = .faulted ∧
      t.faultCause = s.faultCause ∧ t.pc = s.pc ∧ t.regs = s.regs ∧ t.mem = s.mem ∧ t.stack = s.stack ∧
      t.diag = s.diag ∧ t.output = s.output) ∧
    (hostReset s).faultCause = none ∧ (hostReset s).execState = .idle ∧ (hostReset s).pc = 0 ∧
    (hostReset s).mem = s.blueprint ∧ (hostReset s).diag = s.diag

/-- Every instruction has an effect in every state, and every step attempt answers a next state as long as the pc is in
`[0, MEM_SIZE]` (R24): no instruction of the table stops the model. -/
def Obligations.EveryAttemptAnswersNext : Prop :=
  (∀ (i : Instr) (s : State), ∃ t, exec i s = .next t) ∧
  (∀ s : State, s.pc ≤ s.memSize → ∃ t, step s = .next t)

/-! ## The step attempt -/

/-- A step attempt that reaches an instruction runs it: lines 4 to 8 of R151. -/
def Obligations.StepRunsTheDecodedInstruction : Prop :=
  ∀ (s : State) (i : Instr), s.execState.terminal = false → s.stop = false → s.pause = false →
    ¬(s.pc ∈ s.bp ∧ s.bpSkip = false) → s.decodeAt s.pc = .instr i →
    step s = exec i { s with execState := .running }

/-- R151, the other outcomes of a step attempt in its order (decisions D18, D19): terminal, stop, pause, breakpoint, end
of memory, decode fault. -/
def Obligations.StepTestsInOrder : Prop :=
  ∀ (s : State),
    (s.execState.terminal = true → step s = .next s) ∧
    (s.execState.terminal = false → s.stop = true → step s = .next { s with execState := .stopped }) ∧
    (s.execState.terminal = false → s.stop = false → s.pause = true → step s = .next { s with execState := .paused }) ∧
    (s.execState.terminal = false → s.stop = false → s.pause = false → s.pc ∈ s.bp → s.bpSkip = false →
      step s =
        .next { s with
          diag := s.diag ++ [s.record .breakpoint]
          bpSkip := true
          pause := true
          pauseCause := some .breakpoint
          execState := .paused }) ∧
    (s.execState.terminal = false → s.stop = false → s.pause = false → ¬(s.pc ∈ s.bp ∧ s.bpSkip = false) →
      (s.pc = s.memSize →
        step s = .next { s with execState := .halted, haltCause := some .endOfMemory, bpSkip := false }) ∧
      (∀ cause, s.decodeAt s.pc = .fault cause →
        step s = .next ({ s with execState := .running }.raise cause)))

/-- A table word placed at the pc is what the decoder reads there, and no other state changes: how the model's
`withFetchWord` stands for the program load of `new` (log entry 3). -/
def Obligations.PlacedTableWordIsFetched : Prop :=
  ∀ (s : State) (nbits w : Nat) (i : Instr), s.mem.wf = true → s.pc + 3 < s.memSize → decodeTableWord nbits w = some i →
    (s.withFetchWord nbits w).decodeAt s.pc = .instr i ∧
    ∃ m, s.withFetchWord nbits w = { s with mem := m } ∧
      ∀ x, (x < s.pc ∨ s.pc + 3 < x) → m.read x = s.mem.read x

/-- R151 line 9, R159: every executed instruction leaves `BPSKIP = 0`, except a stalled IN, which leaves the whole state
as it was (decision D19, D28). -/
def Obligations.BpskipClearedUnlessStalled : Prop :=
  ∀ (i : Instr) (s t : State), exec i s = .next t →
    t.bpSkip = false ∨ (t = s ∧ s.inq = [] ∧ ∃ a r, i = .in_ a ∧ dst a = some r)

/-- R162: every transition of `STATE`, and no other. -/
def Obligations.StatesChangeOnlyAsTheDiagramSays : Prop :=
  (∀ s t : State, step s = .next t →
    (s.execState.terminal = true → t = s) ∧
    (s.execState.terminal = false → s.stop = true → t.execState = .stopped) ∧
    (s.execState.terminal = false → s.stop = false → s.pause = true → t.execState = .paused) ∧
    (s.execState.terminal = false → s.stop = false → s.pause = false →
      t.execState = .running ∨
      (t.execState = .paused ∧ s.pc ∈ s.bp ∧ s.bpSkip = false) ∨
      (t.execState = .halted ∧ (s.pc = s.memSize ∨ s.decodeAt s.pc = .instr .halt ∨
        (s.decodeAt s.pc = .instr .ret ∧ s.stack = []))) ∨
      (t.execState = .faulted ∧ ∃ cause, t.faultCause = some cause))) ∧
  (∀ (s : State) (op : HostOp),
    (applyHostOp op s).execState = if op = .reset then .idle else s.execState) ∧
  (∀ (bytes : List Byte) (n : Nat) (cap : Option Nat) (t : State), hostNew bytes n cap = .next t → t.execState = .idle)

/-! ## Whole-machine frames -/

/-- R199: no instruction touches the host's requests, the breakpoints, the blueprint or the parameters, and each appends
at most one diagnostic record (R38). -/
def Obligations.ProgramCannotTouchHostState : Prop :=
  ∀ (i : Instr) (s t : State), exec i s = .next t →
    t.stop = s.stop ∧ t.pause = s.pause ∧ t.pauseCause = s.pauseCause ∧ t.bp = s.bp ∧
    t.blueprint = s.blueprint ∧ t.memSize = s.memSize ∧ t.stackCap = s.stackCap ∧
    (t.diag = s.diag ∨ ∃ kind, t.diag = s.diag ++ [s.record kind])

/-- R21, R27, R37, R39, R52, R53: an instruction changes no register but its destination, and memory, the stack, the input
queue and the output stream are each changed only by the instructions the spec names. -/
def Obligations.InstructionsChangeOnlyTheirTargets : Prop :=
  ∀ (i : Instr) (s t : State), exec i s = .next t →
    (∀ r : Fin 8, i.destination.bind dst ≠ some r → t.regs[r] = s.regs[r]) ∧
    ((∀ a b, i ≠ .wmem a b) → t.mem = s.mem) ∧
    (∀ a b, i = .wmem a b → ∀ addr, rd s a = some addr → ∀ x, x ≠ addr.toNat → t.mem.read x = s.mem.read x) ∧
    ((∀ a, i ≠ .push a) → (∀ a, i ≠ .pop a) → (∀ a, i ≠ .call a) → i ≠ .ret → t.stack = s.stack) ∧
    ((∀ a, i ≠ .in_ a) → t.inq = s.inq) ∧
    ((∀ a, i ≠ .out a) → t.output = s.output)

/-- R199, R202: what an instruction does to the program's view of the machine depends on that view alone: not on
breakpoints, requests, the diagnostic stream or the blueprint. -/
def Obligations.ProgramViewDeterminesEffect : Prop :=
  ∀ (i : Instr) (s t s' t' : State), s.programView = t.programView →
    exec i s = .next s' → exec i t = .next t' → s'.programView = t'.programView

/-- R202: "a program runs the same instructions to the same results whether or not breakpoints are set, only later": an
attempt of an engine with breakpoints either does what the attempt without them does, or suspends first, and does it after
the host's `unpause()`. -/
def Obligations.BreakpointsOnlyDelay : Prop :=
  ∀ (s t' : State), s.execState.terminal = false → s.stop = false → s.pause = false →
    step { s with bp := [], bpSkip := false } = .next t' →
    ∃ s', s'.programView = t'.programView ∧
      (step s = .next s' ∨ ∃ u, step s = .next u ∧ u.execState = .paused ∧ step (hostUnpause u) = .next s')

/-- R63: after a WMEM completes every later fetch and read of its cell sees the stored Word, and every other cell is
fetched as before; what is decoded anywhere is decided by the cells as they now are. -/
def Obligations.StoredWordIsFetchedNext : Prop :=
  ∀ (s t : State) (a b addr v : Word), s.mem.wf = true → rd s a = some addr → rd s b = some v →
    addr.toNat < s.memSize → exec (.wmem a b) s = .next t →
    (∀ x, t.memRead x = if x = addr.toNat then some v else s.memRead x) ∧
    (∀ p, t.wordsAt p =
      [p, p + 1, p + 2, p + 3].filterMap fun x => if x = addr.toNat then some v else s.memRead x)

/-- R38, R39: `DIAG` and `OUTPUT` are append-only along any interleaving of attempts and host operations, `reset()` among
them. -/
def Obligations.OutputAndDiagnosticsOnlyGrow : Prop :=
  ∀ (es : List Event) (s t : State), runEvents es s = .next t → s.diag <+: t.diag ∧ s.output <+: t.output

/-! ## Invariants -/

/-- The state after reset meets the invariant. -/
def Obligations.ResetMeetsInvariant : Prop := State.reset.Inv

/-- Every step attempt keeps the invariant: memory stays canonical and in range, the pc stays in `[0, MEM_SIZE]`, the
stack in its capacity, the cause registers in step with `STATE` and `PAUSE`, `BP` a set, `BPSKIP` at a breakpoint. -/
def Obligations.StepKeepsInvariant : Prop := ∀ s t : State, s.Inv → step s = .next t → t.Inv

/-- Every host operation keeps the invariant, and construction establishes it. -/
def Obligations.HostOperationsKeepInvariant : Prop :=
  (∀ (s : State) (op : HostOp), s.Inv → (applyHostOp op s).Inv) ∧
  (∀ (bytes : List Byte) (n : Nat) (cap : Option Nat) (t : State), hostNew bytes n cap = .next t → t.Inv)

/-! ## The host -/

/-- R155: `stop()` ends the run at the next attempt in a non-terminal state, executes nothing and wins over pause,
breakpoint and stall; nothing but `reset()` clears `STOP`. -/
def Obligations.StopEndsTheRunAtNextAttempt : Prop :=
  ∀ (s : State),
    hostStop s = { s with stop := true } ∧
    (s.execState.terminal = false → step (hostStop s) = .next { s with stop := true, execState := .stopped }) ∧
    (s.execState.terminal = true → step (hostStop s) = .next { s with stop := true }) ∧
    (∀ op : HostOp, op ≠ .reset → s.stop = true → (applyHostOp op s).stop = true) ∧
    (∀ t, step s = .next t → t.stop = s.stop)

/-- R154: `pause()` and `unpause()` write the flag and its cause and nothing else, both are idempotent, and the next
attempt acts on the flag. -/
def Obligations.PauseAndUnpauseToggleTheFlag : Prop :=
  ∀ (s : State),
    hostPause s = { s with pause := true, pauseCause := some .host } ∧
    hostUnpause s = { s with pause := false, pauseCause := none } ∧
    hostPause (hostPause s) = hostPause s ∧ hostUnpause (hostUnpause s) = hostUnpause s ∧
    (s.execState.terminal = false → s.stop = false →
      step (hostPause s) = .next { s with pause := true, pauseCause := some .host, execState := .paused }) ∧
    (s.execState.terminal = true →
      step (hostPause s) = .next (hostPause s) ∧ step (hostUnpause s) = .next (hostUnpause s))

/-- R158, R159: a breakpoint fires once per arrival: the attempt suspends before decode, later attempts change nothing, and
after `unpause()` the instruction runs (decision D19). -/
def Obligations.BreakpointFiresOncePerArrival : Prop :=
  ∀ (s : State) (i : Instr), s.execState.terminal = false → s.stop = false → s.pause = false → s.pc ∈ s.bp →
    s.bpSkip = false → s.decodeAt s.pc = .instr i →
    ∃ u, step s = .next u ∧ u.execState = .paused ∧ u.diag = s.diag ++ [s.record .breakpoint] ∧
      u.programView = { s with execState := .paused }.programView ∧
      step u = .next u ∧
      step (hostUnpause u) =
        exec i { s with
          execState := .running
          bpSkip := true
          pause := false
          pauseCause := none
          diag := s.diag ++ [s.record .breakpoint] }

/-- R35, R158, R161: `add_breakpoint` is idempotent insertion in a set and keeps it one; `insert_input` appends the bytes
at the tail; neither changes anything else (decisions D27, D34). -/
def Obligations.BreakpointAndInputInsertions : Prop :=
  ∀ (s : State) (addr : Nat) (text : List Byte),
    (∃ bp, hostAddBreakpoint addr s = { s with bp := bp } ∧ (∀ x, x ∈ bp ↔ x = addr ∨ x ∈ s.bp) ∧
      (s.bp.Pairwise (· < ·) → bp.Pairwise (· < ·))) ∧
    hostAddBreakpoint addr (hostAddBreakpoint addr s) = hostAddBreakpoint addr s ∧
    hostInsertInput text s = { s with inq := s.inq ++ text }

/-- R62: along any interleaving of attempts and host operations the bytes queued at first and inserted since are those
the INs of the run took (`bytesTaken`), in order, followed by those still queued; an attempt takes none and leaves `INQ` as
it was, or takes exactly the head byte, into the destination of the IN at the pc; and a host operation takes none. That
`INQ` survives `reset()` is the spec's choice D21 (R37, R210, log entry 10). -/
def Obligations.InputIsConsumedInOrder : Prop :=
  (∀ (es : List Event) (s t : State), runEvents es s = .next t →
    s.inq ++ es.flatMap Event.inserted = bytesTaken es s ++ t.inq) ∧
  (∀ s t : State, step s = .next t →
    (s.byteTaken = [] ∧ t.inq = s.inq) ∨
      ∃ (byte : Byte) (a : Word) (r : Fin 8), s.byteTaken = [byte] ∧ s.inq = byte :: t.inq ∧
        s.decodeAt s.pc = .instr (.in_ a) ∧ dst a = some r ∧ t.regs[r].toNat = byte.toNat) ∧
  (∀ (op : HostOp) (s : State),
    (applyHostOp op s).inq = s.inq ++ (match op with | .insertInput text => text | _ => []))

/-- R210: what `reset()` writes and what it keeps (decision D21). -/
def Obligations.ResetRestoresTheBlueprint : Prop :=
  ∀ (s : State),
    hostReset s =
      { memSize := s.memSize, stackCap := s.stackCap, mem := s.blueprint, blueprint := s.blueprint,
        regs := #v[0, 0, 0, 0, 0, 0, 0, 0], pc := 0, stack := [], execState := .idle, haltCause := none,
        faultCause := none, stop := false, pause := false, pauseCause := none, bp := s.bp, bpSkip := false,
        inq := s.inq, diag := s.diag, output := s.output }

/-- R211: reset is idempotent and history-free: whatever ran before it, memory, registers, stack and pc after it are the
same. -/
def Obligations.ResetIsHistoryFree : Prop :=
  (∀ s : State, hostReset (hostReset s) = hostReset s) ∧
  (∀ (es : List Event) (s t : State), runEvents es s = .next t →
    (hostReset t).mem = (hostReset s).mem ∧ (hostReset t).regs = (hostReset s).regs ∧
    (hostReset t).stack = (hostReset s).stack ∧ (hostReset t).pc = (hostReset s).pc ∧
    (hostReset t).execState = (hostReset s).execState)

/-- R212, R213: construction builds memory and blueprint from the little-endian image, truncated or padded with 0 to the
memory size (decisions D3, D22), leaves everything else in the post-reset state R44, and refuses a bad size or an odd
image (decisions D1, D3). -/
def Obligations.NewBuildsTheImage : Prop :=
  ∀ (bytes : List Byte) (n : Nat) (cap : Option Nat),
    (n = 0 ∨ 65536 < n → hostNew bytes n cap = .refused .memorySizeOutOfRange) ∧
    (0 < n → n ≤ 65536 → bytes.length % 2 = 1 → hostNew bytes n cap = .refused .oddProgramLength) ∧
    (∀ len, 0 < n → n ≤ 65536 → bytes.length = 2 * len →
      ∃ m : Memory, hostNew bytes n cap =
          .next { State.reset with memSize := n, stackCap := cap, mem := m, blueprint := m } ∧
        m.wf = true ∧
        ∀ k, k < n → (m.read k).toNat =
          if k < len then (bytes.getD (2 * k) 0).toNat + 256 * (bytes.getD (2 * k + 1) 0).toNat else 0)

/-- R44: the values after reset, with the parameters `MEM_SIZE = 65536` and `STACK_CAP` unbounded that the model chose for
`State.reset` (log entry 2); it is the state that `new` leaves for the empty image (decision D22). -/
def Obligations.ResetStateHoldsTheResetValues : Prop :=
  State.reset.regs = #v[0, 0, 0, 0, 0, 0, 0, 0] ∧ State.reset.pc = 0 ∧ State.reset.stack = [] ∧
  State.reset.execState = .idle ∧ State.reset.haltCause = none ∧ State.reset.faultCause = none ∧
  State.reset.stop = false ∧ State.reset.pause = false ∧ State.reset.pauseCause = none ∧
  State.reset.bpSkip = false ∧ State.reset.bp = [] ∧ State.reset.inq = [] ∧ State.reset.output = [] ∧
  State.reset.diag = [] ∧ (∀ k, State.reset.mem.read k = 0 ∧ State.reset.blueprint.read k = 0) ∧
  hostNew [] 65536 none = .next State.reset

/-! ## Listing -/

/-- R82, R87: every record of a listing that is an instruction is what decoding at its address gives, a data record is the
word at its address and stands only where the words from there decode to no instruction, and the records in order cover the
memory, word for word. A cut-off instruction shown as data is the spec's choice D29 (log entry 20). -/
def Obligations.ListingDecodesBack : Prop :=
  ∀ memory : List Word,
    (∀ (p : Nat) (i : Instr), .instr p i ∈ disassemble memory →
      ∃ rest, decodeWords (memory.drop p) = .instr i rest) ∧
    (∀ (p : Nat) (w : Word), .data p w ∈ disassemble memory →
      memory[p]? = some w ∧ ∃ e, decodeWords (memory.drop p) = .error e) ∧
    (disassemble memory).flatMap (fun rec => match rec with
      | .instr _ i => encode i
      | .data _ w => [w]) = memory
end

