-- ==== Sys2Proof/Laws/Memory.lean ====
section
/-! SUPPORT. The laws of the memory list: reading after writing, and that every operation keeps the canonical form and the
range of the listed addresses. -/

namespace Sys2Proof.Machine

namespace Memory

@[simp] theorem read_nil (addr : Nat) : read [] addr = unlisted := rfl

@[simp] theorem read_cons (a : Nat) (v : Word) (m : Memory) (addr : Nat) :
    read ((a, v) :: m) addr = if a = addr then v else read m addr := rfl

@[simp] theorem wfFrom_nil (lo : Nat) : wfFrom lo [] = true := rfl

@[simp] theorem wfFrom_cons (lo a : Nat) (v : Word) (m : Memory) :
    wfFrom lo ((a, v) :: m) = true ↔ lo ≤ a ∧ v ≠ unlisted ∧ wfFrom (a + 1) m = true := by
  simp [wfFrom, and_assoc]

theorem wfFrom_mono {lo lo' : Nat} (h : lo' ≤ lo) : ∀ {m : Memory}, wfFrom lo m = true → wfFrom lo' m = true
  | [], _ => rfl
  | (a, v) :: m, hm => by
    rw [wfFrom_cons] at hm ⊢
    exact ⟨h.trans hm.1, hm.2⟩

/-- Below the first listed address every cell reads as unlisted. -/
theorem read_of_wfFrom {lo : Nat} : ∀ {m : Memory}, wfFrom lo m = true → ∀ {addr : Nat}, addr < lo → read m addr = unlisted
  | [], _, _, _ => rfl
  | (a, v) :: m, hm, addr, h => by
    rw [wfFrom_cons] at hm
    rw [read_cons, if_neg (by omega)]
    exact read_of_wfFrom hm.2.2 (by omega)

/-- A write leaves every other cell alone, in any list. -/
theorem read_write_of_ne (m : Memory) {addr x : Nat} (v : Word) (h : x ≠ addr) : read (write m addr v) x = read m x := by
  induction m with
  | nil => unfold write; split <;> simp [h.symm]
  | cons c m ih =>
    obtain ⟨a, w⟩ := c
    unfold write
    split_ifs with h1 h2 h3 h4
    · rfl
    · rw [read_cons, if_neg h.symm]
    · rw [read_cons, if_neg (by omega)]
    · rw [read_cons, read_cons, if_neg h.symm, if_neg (by omega)]
    · rw [read_cons, read_cons, ih]

/-- In the canonical form a written cell reads as what was written. -/
theorem read_write_same {lo : Nat} {m : Memory} (hm : wfFrom lo m = true) (addr : Nat) (v : Word) :
    read (write m addr v) addr = v := by
  induction m generalizing lo with
  | nil => unfold write; split <;> simp_all
  | cons c m ih =>
    obtain ⟨a, w⟩ := c
    rw [wfFrom_cons] at hm
    unfold write
    split_ifs with h1 h2 h3 h4
    · rw [read_cons, if_neg (by omega), read_of_wfFrom hm.2.2 (by omega), h2]
    · simp
    · rw [read_of_wfFrom hm.2.2 (by omega), h4]
    · simp
    · rw [read_cons, if_neg h3, ih hm.2.2]

/-- A write keeps the canonical form. -/
theorem wfFrom_write {lo : Nat} {m : Memory} (hm : wfFrom lo m = true) {addr : Nat} (ha : lo ≤ addr) (v : Word) :
    wfFrom lo (write m addr v) = true := by
  induction m generalizing lo with
  | nil => unfold write; split <;> simp_all
  | cons c m ih =>
    obtain ⟨a, w⟩ := c
    have hm' := hm
    rw [wfFrom_cons] at hm
    unfold write
    split_ifs with h1 h2 h3 h4
    · exact hm'
    · simp only [wfFrom_cons]
      exact ⟨ha, h2, by omega, hm.2⟩
    · exact wfFrom_mono (by omega) hm.2.2
    · rw [wfFrom_cons]
      exact ⟨ha, h4, h3 ▸ hm.2.2⟩
    · rw [wfFrom_cons]
      exact ⟨hm.1, hm.2.1, ih hm.2.2 (by omega)⟩

theorem wf_write {m : Memory} (hm : wf m = true) (addr : Nat) (v : Word) : wf (write m addr v) = true :=
  wfFrom_write hm (Nat.zero_le _) v

@[simp] theorem below_nil (n : Nat) : below n [] = true := rfl

@[simp] theorem below_cons (n a : Nat) (v : Word) (m : Memory) :
    below n ((a, v) :: m) = true ↔ a < n ∧ below n m = true := by
  simp [below]

/-- A write inside the bound keeps every listed address below it. -/
theorem below_write {n : Nat} {m : Memory} (hm : below n m = true) {addr : Nat} (ha : addr < n) (v : Word) :
    below n (write m addr v) = true := by
  induction m with
  | nil => unfold write; split <;> simp [ha]
  | cons c m ih =>
    obtain ⟨a, w⟩ := c
    rw [below_cons] at hm
    unfold write
    split_ifs <;> simp [hm, ha, ih hm.2]

theorem wfFrom_ofWords (ws : List Word) (addr : Nat) : wfFrom addr (ofWords addr ws) = true := by
  induction ws generalizing addr with
  | nil => rfl
  | cons w ws ih =>
    unfold ofWords
    split_ifs with h
    · exact wfFrom_mono (Nat.le_succ addr) (ih (addr + 1))
    · rw [wfFrom_cons]
      exact ⟨le_refl _, h, ih (addr + 1)⟩

theorem below_ofWords {n : Nat} (ws : List Word) (addr : Nat) (h : addr + ws.length ≤ n) :
    below n (ofWords addr ws) = true := by
  induction ws generalizing addr with
  | nil => rfl
  | cons w ws ih =>
    have h' : addr + 1 + ws.length ≤ n := by simp at h; omega
    unfold ofWords
    split_ifs
    · exact ih _ h'
    · rw [below_cons]
      exact ⟨by omega, ih _ h'⟩

/-- The memory of a list of words reads as those words in order, and as unlisted past them. -/
theorem read_ofWords (ws : List Word) (addr k : Nat) :
    read (ofWords addr ws) (addr + k) = ws.getD k unlisted := by
  induction ws generalizing addr k with
  | nil => simp [ofWords]
  | cons w ws ih =>
    have hlow : read (ofWords (addr + 1) ws) addr = unlisted :=
      read_of_wfFrom (wfFrom_ofWords ws (addr + 1)) (Nat.lt_succ_self addr)
    unfold ofWords
    cases k with
    | zero => split_ifs with h <;> simp [hlow, h]
    | succ k =>
      have := ih (addr + 1) k
      rw [show addr + 1 + k = addr + (k + 1) by omega] at this
      split_ifs <;> simp [this]

end Memory

theorem imageMemory_wf (n : Nat) (ws : List Word) : (imageMemory n ws).wf = true := Memory.wfFrom_ofWords _ 0

theorem imageMemory_below (n : Nat) (ws : List Word) : (imageMemory n ws).below n = true :=
  Memory.below_ofWords _ 0 (by simp)

/-- What `MemRead` can answer (R14, R57). -/
theorem State.memRead_eq_some {s : State} {addr : Nat} {v : Word} :
    s.memRead addr = some v ↔ addr < s.memSize ∧ s.mem.read addr = v := by
  unfold State.memRead
  split_ifs with h <;> simp [h]

@[simp] theorem State.memRead_eq_none {s : State} {addr : Nat} : s.memRead addr = none ↔ s.memSize ≤ addr := by
  unfold State.memRead
  split_ifs with h <;> simp <;> omega

/-- What `MemWrite` can answer (R14, R57). -/
theorem State.memWrite_eq_some {s t : State} {addr : Nat} {v : Word} :
    s.memWrite addr v = some t ↔ addr < s.memSize ∧ t = { s with mem := s.mem.write addr v } := by
  unfold State.memWrite
  split_ifs with h <;> simp [h, eq_comm]

@[simp] theorem State.memWrite_eq_none {s : State} {addr : Nat} {v : Word} :
    s.memWrite addr v = none ↔ s.memSize ≤ addr := by
  unfold State.memWrite
  split_ifs with h <;> simp <;> omega

/-- Storing words keeps the canonical form and touches no field but `mem`. -/
theorem State.storeWords_spec (s : State) (addr : Nat) (ws : List Word) :
    ∃ m, s.storeWords addr ws = { s with mem := m } ∧ (s.mem.wf = true → m.wf = true) := by
  induction ws generalizing addr with
  | nil => exact ⟨s.mem, rfl, id⟩
  | cons w ws ih =>
    obtain ⟨m, hm, hwf⟩ := ih (addr + 1)
    unfold State.storeWords
    rw [hm]
    unfold State.memWrite
    split_ifs
    · exact ⟨m.write addr w, rfl, fun h => Memory.wf_write (hwf h) addr w⟩
    · exact ⟨m, rfl, hwf⟩

end Sys2Proof.Machine
end

