-- ==== Sys2Proof/Laws/Decode.lean ====
section
/-! SUPPORT. What decoding at an address can answer (R74), and what it looks at. -/

namespace Sys2Proof

theorem decodeOperands1_eq_instr {f : Word → Instr} {ws rest : List Word} {i : Instr} :
    decodeOperands1 f ws = .instr i rest ↔ ∃ a, ws = a :: rest ∧ i = f a := by
  rcases ws with _ | ⟨a, ws⟩ <;> simp [decodeOperands1, eq_comm, and_comm]

theorem decodeOperands2_eq_instr {f : Word → Word → Instr} {ws rest : List Word} {i : Instr} :
    decodeOperands2 f ws = .instr i rest ↔ ∃ a b, ws = a :: b :: rest ∧ i = f a b := by
  rcases ws with _ | ⟨a, _ | ⟨b, ws⟩⟩ <;> simp [decodeOperands2, eq_comm, and_comm]

theorem decodeOperands3_eq_instr {f : Word → Word → Word → Instr} {ws rest : List Word} {i : Instr} :
    decodeOperands3 f ws = .instr i rest ↔ ∃ a b c, ws = a :: b :: c :: rest ∧ i = f a b c := by
  rcases ws with _ | ⟨a, _ | ⟨b, _ | ⟨c, ws⟩⟩⟩ <;> simp [decodeOperands3, eq_comm, and_comm]

/-- An opcode word is the number of its instruction and no other (R71, R75). -/
theorem Instr.opcode_toNat_le (i : Instr) : i.opcode.toNat ≤ 21 := by
  cases i <;> exact Nat.le_of_ble_eq_true rfl

/-- At most three operand words (R70). -/
theorem Instr.operands_length_le (i : Instr) : i.operands.length ≤ 3 := by cases i <;> simp [Instr.operands]

namespace Machine

/-- The words at an address, by the four cells that may exist. -/
theorem State.wordsAt_eq (s : State) (addr : Nat) :
    s.wordsAt addr = (List.range (min 4 (s.memSize - addr))).map fun k => s.mem.read (addr + k) := by
  have read_in {x : Nat} (h : x < s.memSize) : s.memRead x = some (s.mem.read x) := if_pos h
  have read_out {x : Nat} (h : s.memSize ≤ x) : s.memRead x = none := if_neg (by omega)
  unfold State.wordsAt
  by_cases h0 : s.memSize ≤ addr
  · rw [show min 4 (s.memSize - addr) = 0 by omega]
    simp [read_out h0, read_out (show s.memSize ≤ addr + 1 by omega), read_out (show s.memSize ≤ addr + 2 by omega),
      read_out (show s.memSize ≤ addr + 3 by omega)]
  by_cases h1 : s.memSize ≤ addr + 1
  · rw [show min 4 (s.memSize - addr) = 1 by omega]
    simp [read_in (show addr < s.memSize by omega), read_out h1, read_out (show s.memSize ≤ addr + 2 by omega),
      read_out (show s.memSize ≤ addr + 3 by omega)]
  by_cases h2 : s.memSize ≤ addr + 2
  · rw [show min 4 (s.memSize - addr) = 2 by omega]
    simp [read_in (show addr < s.memSize by omega), read_in (show addr + 1 < s.memSize by omega), read_out h2,
      read_out (show s.memSize ≤ addr + 3 by omega), List.range_succ]
  by_cases h3 : s.memSize ≤ addr + 3
  · rw [show min 4 (s.memSize - addr) = 3 by omega]
    simp [read_in (show addr < s.memSize by omega), read_in (show addr + 1 < s.memSize by omega),
      read_in (show addr + 2 < s.memSize by omega), read_out h3, List.range_succ]
  · rw [show min 4 (s.memSize - addr) = 4 by omega]
    simp [read_in (show addr < s.memSize by omega), read_in (show addr + 1 < s.memSize by omega),
      read_in (show addr + 2 < s.memSize by omega), read_in (show addr + 3 < s.memSize by omega), List.range_succ]

theorem State.length_wordsAt (s : State) (addr : Nat) : (s.wordsAt addr).length = min 4 (s.memSize - addr) := by
  simp [State.wordsAt_eq]

/-- What an answer of `decodeAt` comes from. -/
theorem State.decodeAt_eq_instr {s : State} {addr : Nat} {i : Instr} :
    s.decodeAt addr = .instr i ↔ ∃ rest, decodeWords (s.wordsAt addr) = .instr i rest := by
  unfold State.decodeAt
  split <;> simp_all

/-- There is no cell to fetch exactly at and above `MEM_SIZE` (R74: "requires pc < MEM_SIZE"). -/
theorem State.decodeAt_eq_noCell {s : State} {addr : Nat} : s.decodeAt addr = .noCell ↔ s.memSize ≤ addr := by
  have hlen := s.length_wordsAt addr
  have noWord {op : Word} {rest : List Word} : decodeOp op rest ≠ .error .noWord := by
    unfold decodeOp
    rcases rest with _ | ⟨a, _ | ⟨b, _ | ⟨c, rest⟩⟩⟩ <;> split <;>
      simp [decodeOperands1, decodeOperands2, decodeOperands3]
  unfold State.decodeAt
  cases hw : s.wordsAt addr with
  | nil => simp only [hw, List.length_nil] at hlen; simp [decodeWords]; omega
  | cons op rest =>
    simp only [hw, List.length_cons] at hlen
    have hlt : ¬s.memSize ≤ addr := by omega
    simp only [decodeWords]
    split <;> simp_all

/-- Decoding looks at the memory and its size, and at nothing else. -/
theorem State.decodeAt_congr {s t : State} (hm : s.mem = t.mem) (hn : s.memSize = t.memSize) (addr : Nat) :
    s.decodeAt addr = t.decodeAt addr := by
  unfold State.decodeAt State.wordsAt State.memRead
  rw [hm, hn]

/-- A diagnostic record looks at memory, its size, the registers, the pc and the stack, and at nothing else. -/
theorem State.record_congr {s t : State} (hm : s.mem = t.mem) (hn : s.memSize = t.memSize) (hr : s.regs = t.regs)
    (hp : s.pc = t.pc) (hs : s.stack = t.stack) (k : DiagKind) : s.record k = t.record k := by
  unfold State.record
  rw [State.decodeAt_congr hm hn, hr, hp, hs]
  unfold State.memRead
  rw [hm, hn]

end Machine

end Sys2Proof
end

