-- ==== Sys2Proof/Laws/State.lean ====
section
/-! SUPPORT. One lemma per field per update of State, true by rfl, so that no proof unfolds a record update; first the
fields each update writes, then those it leaves alone. -/

namespace Sys2Proof.Machine

variable (s : State)

/-! State.setReg -/

@[simp] theorem State.setReg_regs (r : Fin 8) (v : Word) : (s.setReg r v).regs = s.regs.set r v := rfl
@[simp] theorem State.setReg_memSize (r : Fin 8) (v : Word) : (s.setReg r v).memSize = s.memSize := rfl
@[simp] theorem State.setReg_stackCap (r : Fin 8) (v : Word) : (s.setReg r v).stackCap = s.stackCap := rfl
@[simp] theorem State.setReg_mem (r : Fin 8) (v : Word) : (s.setReg r v).mem = s.mem := rfl
@[simp] theorem State.setReg_blueprint (r : Fin 8) (v : Word) : (s.setReg r v).blueprint = s.blueprint := rfl
@[simp] theorem State.setReg_pc (r : Fin 8) (v : Word) : (s.setReg r v).pc = s.pc := rfl
@[simp] theorem State.setReg_stack (r : Fin 8) (v : Word) : (s.setReg r v).stack = s.stack := rfl
@[simp] theorem State.setReg_execState (r : Fin 8) (v : Word) : (s.setReg r v).execState = s.execState := rfl
@[simp] theorem State.setReg_haltCause (r : Fin 8) (v : Word) : (s.setReg r v).haltCause = s.haltCause := rfl
@[simp] theorem State.setReg_faultCause (r : Fin 8) (v : Word) : (s.setReg r v).faultCause = s.faultCause := rfl
@[simp] theorem State.setReg_stop (r : Fin 8) (v : Word) : (s.setReg r v).stop = s.stop := rfl
@[simp] theorem State.setReg_pause (r : Fin 8) (v : Word) : (s.setReg r v).pause = s.pause := rfl
@[simp] theorem State.setReg_pauseCause (r : Fin 8) (v : Word) : (s.setReg r v).pauseCause = s.pauseCause := rfl
@[simp] theorem State.setReg_bp (r : Fin 8) (v : Word) : (s.setReg r v).bp = s.bp := rfl
@[simp] theorem State.setReg_bpSkip (r : Fin 8) (v : Word) : (s.setReg r v).bpSkip = s.bpSkip := rfl
@[simp] theorem State.setReg_inq (r : Fin 8) (v : Word) : (s.setReg r v).inq = s.inq := rfl
@[simp] theorem State.setReg_diag (r : Fin 8) (v : Word) : (s.setReg r v).diag = s.diag := rfl
@[simp] theorem State.setReg_output (r : Fin 8) (v : Word) : (s.setReg r v).output = s.output := rfl

/-! State.pushWord -/

@[simp] theorem State.pushWord_stack (v : Word) : (s.pushWord v).stack = s.stack ++ [v] := rfl
@[simp] theorem State.pushWord_memSize (v : Word) : (s.pushWord v).memSize = s.memSize := rfl
@[simp] theorem State.pushWord_stackCap (v : Word) : (s.pushWord v).stackCap = s.stackCap := rfl
@[simp] theorem State.pushWord_mem (v : Word) : (s.pushWord v).mem = s.mem := rfl
@[simp] theorem State.pushWord_blueprint (v : Word) : (s.pushWord v).blueprint = s.blueprint := rfl
@[simp] theorem State.pushWord_regs (v : Word) : (s.pushWord v).regs = s.regs := rfl
@[simp] theorem State.pushWord_pc (v : Word) : (s.pushWord v).pc = s.pc := rfl
@[simp] theorem State.pushWord_execState (v : Word) : (s.pushWord v).execState = s.execState := rfl
@[simp] theorem State.pushWord_haltCause (v : Word) : (s.pushWord v).haltCause = s.haltCause := rfl
@[simp] theorem State.pushWord_faultCause (v : Word) : (s.pushWord v).faultCause = s.faultCause := rfl
@[simp] theorem State.pushWord_stop (v : Word) : (s.pushWord v).stop = s.stop := rfl
@[simp] theorem State.pushWord_pause (v : Word) : (s.pushWord v).pause = s.pause := rfl
@[simp] theorem State.pushWord_pauseCause (v : Word) : (s.pushWord v).pauseCause = s.pauseCause := rfl
@[simp] theorem State.pushWord_bp (v : Word) : (s.pushWord v).bp = s.bp := rfl
@[simp] theorem State.pushWord_bpSkip (v : Word) : (s.pushWord v).bpSkip = s.bpSkip := rfl
@[simp] theorem State.pushWord_inq (v : Word) : (s.pushWord v).inq = s.inq := rfl
@[simp] theorem State.pushWord_diag (v : Word) : (s.pushWord v).diag = s.diag := rfl
@[simp] theorem State.pushWord_output (v : Word) : (s.pushWord v).output = s.output := rfl

/-! State.dropTop -/

@[simp] theorem State.dropTop_stack : s.dropTop.stack = s.stack.dropLast := rfl
@[simp] theorem State.dropTop_memSize : s.dropTop.memSize = s.memSize := rfl
@[simp] theorem State.dropTop_stackCap : s.dropTop.stackCap = s.stackCap := rfl
@[simp] theorem State.dropTop_mem : s.dropTop.mem = s.mem := rfl
@[simp] theorem State.dropTop_blueprint : s.dropTop.blueprint = s.blueprint := rfl
@[simp] theorem State.dropTop_regs : s.dropTop.regs = s.regs := rfl
@[simp] theorem State.dropTop_pc : s.dropTop.pc = s.pc := rfl
@[simp] theorem State.dropTop_execState : s.dropTop.execState = s.execState := rfl
@[simp] theorem State.dropTop_haltCause : s.dropTop.haltCause = s.haltCause := rfl
@[simp] theorem State.dropTop_faultCause : s.dropTop.faultCause = s.faultCause := rfl
@[simp] theorem State.dropTop_stop : s.dropTop.stop = s.stop := rfl
@[simp] theorem State.dropTop_pause : s.dropTop.pause = s.pause := rfl
@[simp] theorem State.dropTop_pauseCause : s.dropTop.pauseCause = s.pauseCause := rfl
@[simp] theorem State.dropTop_bp : s.dropTop.bp = s.bp := rfl
@[simp] theorem State.dropTop_bpSkip : s.dropTop.bpSkip = s.bpSkip := rfl
@[simp] theorem State.dropTop_inq : s.dropTop.inq = s.inq := rfl
@[simp] theorem State.dropTop_diag : s.dropTop.diag = s.diag := rfl
@[simp] theorem State.dropTop_output : s.dropTop.output = s.output := rfl

/-! State.emit -/

@[simp] theorem State.emit_output (b : Byte) : (s.emit b).output = s.output ++ [b] := rfl
@[simp] theorem State.emit_memSize (b : Byte) : (s.emit b).memSize = s.memSize := rfl
@[simp] theorem State.emit_stackCap (b : Byte) : (s.emit b).stackCap = s.stackCap := rfl
@[simp] theorem State.emit_mem (b : Byte) : (s.emit b).mem = s.mem := rfl
@[simp] theorem State.emit_blueprint (b : Byte) : (s.emit b).blueprint = s.blueprint := rfl
@[simp] theorem State.emit_regs (b : Byte) : (s.emit b).regs = s.regs := rfl
@[simp] theorem State.emit_pc (b : Byte) : (s.emit b).pc = s.pc := rfl
@[simp] theorem State.emit_stack (b : Byte) : (s.emit b).stack = s.stack := rfl
@[simp] theorem State.emit_execState (b : Byte) : (s.emit b).execState = s.execState := rfl
@[simp] theorem State.emit_haltCause (b : Byte) : (s.emit b).haltCause = s.haltCause := rfl
@[simp] theorem State.emit_faultCause (b : Byte) : (s.emit b).faultCause = s.faultCause := rfl
@[simp] theorem State.emit_stop (b : Byte) : (s.emit b).stop = s.stop := rfl
@[simp] theorem State.emit_pause (b : Byte) : (s.emit b).pause = s.pause := rfl
@[simp] theorem State.emit_pauseCause (b : Byte) : (s.emit b).pauseCause = s.pauseCause := rfl
@[simp] theorem State.emit_bp (b : Byte) : (s.emit b).bp = s.bp := rfl
@[simp] theorem State.emit_bpSkip (b : Byte) : (s.emit b).bpSkip = s.bpSkip := rfl
@[simp] theorem State.emit_inq (b : Byte) : (s.emit b).inq = s.inq := rfl
@[simp] theorem State.emit_diag (b : Byte) : (s.emit b).diag = s.diag := rfl

/-! State.dropInput -/

@[simp] theorem State.dropInput_inq : s.dropInput.inq = s.inq.tail := rfl
@[simp] theorem State.dropInput_memSize : s.dropInput.memSize = s.memSize := rfl
@[simp] theorem State.dropInput_stackCap : s.dropInput.stackCap = s.stackCap := rfl
@[simp] theorem State.dropInput_mem : s.dropInput.mem = s.mem := rfl
@[simp] theorem State.dropInput_blueprint : s.dropInput.blueprint = s.blueprint := rfl
@[simp] theorem State.dropInput_regs : s.dropInput.regs = s.regs := rfl
@[simp] theorem State.dropInput_pc : s.dropInput.pc = s.pc := rfl
@[simp] theorem State.dropInput_stack : s.dropInput.stack = s.stack := rfl
@[simp] theorem State.dropInput_execState : s.dropInput.execState = s.execState := rfl
@[simp] theorem State.dropInput_haltCause : s.dropInput.haltCause = s.haltCause := rfl
@[simp] theorem State.dropInput_faultCause : s.dropInput.faultCause = s.faultCause := rfl
@[simp] theorem State.dropInput_stop : s.dropInput.stop = s.stop := rfl
@[simp] theorem State.dropInput_pause : s.dropInput.pause = s.pause := rfl
@[simp] theorem State.dropInput_pauseCause : s.dropInput.pauseCause = s.pauseCause := rfl
@[simp] theorem State.dropInput_bp : s.dropInput.bp = s.bp := rfl
@[simp] theorem State.dropInput_bpSkip : s.dropInput.bpSkip = s.bpSkip := rfl
@[simp] theorem State.dropInput_diag : s.dropInput.diag = s.diag := rfl
@[simp] theorem State.dropInput_output : s.dropInput.output = s.output := rfl

/-! State.report -/

@[simp] theorem State.report_diag (k : DiagKind) : (s.report k).diag = s.diag ++ [s.record k] := rfl
@[simp] theorem State.report_memSize (k : DiagKind) : (s.report k).memSize = s.memSize := rfl
@[simp] theorem State.report_stackCap (k : DiagKind) : (s.report k).stackCap = s.stackCap := rfl
@[simp] theorem State.report_mem (k : DiagKind) : (s.report k).mem = s.mem := rfl
@[simp] theorem State.report_blueprint (k : DiagKind) : (s.report k).blueprint = s.blueprint := rfl
@[simp] theorem State.report_regs (k : DiagKind) : (s.report k).regs = s.regs := rfl
@[simp] theorem State.report_pc (k : DiagKind) : (s.report k).pc = s.pc := rfl
@[simp] theorem State.report_stack (k : DiagKind) : (s.report k).stack = s.stack := rfl
@[simp] theorem State.report_execState (k : DiagKind) : (s.report k).execState = s.execState := rfl
@[simp] theorem State.report_haltCause (k : DiagKind) : (s.report k).haltCause = s.haltCause := rfl
@[simp] theorem State.report_faultCause (k : DiagKind) : (s.report k).faultCause = s.faultCause := rfl
@[simp] theorem State.report_stop (k : DiagKind) : (s.report k).stop = s.stop := rfl
@[simp] theorem State.report_pause (k : DiagKind) : (s.report k).pause = s.pause := rfl
@[simp] theorem State.report_pauseCause (k : DiagKind) : (s.report k).pauseCause = s.pauseCause := rfl
@[simp] theorem State.report_bp (k : DiagKind) : (s.report k).bp = s.bp := rfl
@[simp] theorem State.report_bpSkip (k : DiagKind) : (s.report k).bpSkip = s.bpSkip := rfl
@[simp] theorem State.report_inq (k : DiagKind) : (s.report k).inq = s.inq := rfl
@[simp] theorem State.report_output (k : DiagKind) : (s.report k).output = s.output := rfl

/-! State.retire -/

@[simp] theorem State.retire_pc (p : Nat) : (s.retire p).pc = p := rfl
@[simp] theorem State.retire_bpSkip (p : Nat) : (s.retire p).bpSkip = false := rfl
@[simp] theorem State.retire_memSize (p : Nat) : (s.retire p).memSize = s.memSize := rfl
@[simp] theorem State.retire_stackCap (p : Nat) : (s.retire p).stackCap = s.stackCap := rfl
@[simp] theorem State.retire_mem (p : Nat) : (s.retire p).mem = s.mem := rfl
@[simp] theorem State.retire_blueprint (p : Nat) : (s.retire p).blueprint = s.blueprint := rfl
@[simp] theorem State.retire_regs (p : Nat) : (s.retire p).regs = s.regs := rfl
@[simp] theorem State.retire_stack (p : Nat) : (s.retire p).stack = s.stack := rfl
@[simp] theorem State.retire_execState (p : Nat) : (s.retire p).execState = s.execState := rfl
@[simp] theorem State.retire_haltCause (p : Nat) : (s.retire p).haltCause = s.haltCause := rfl
@[simp] theorem State.retire_faultCause (p : Nat) : (s.retire p).faultCause = s.faultCause := rfl
@[simp] theorem State.retire_stop (p : Nat) : (s.retire p).stop = s.stop := rfl
@[simp] theorem State.retire_pause (p : Nat) : (s.retire p).pause = s.pause := rfl
@[simp] theorem State.retire_pauseCause (p : Nat) : (s.retire p).pauseCause = s.pauseCause := rfl
@[simp] theorem State.retire_bp (p : Nat) : (s.retire p).bp = s.bp := rfl
@[simp] theorem State.retire_inq (p : Nat) : (s.retire p).inq = s.inq := rfl
@[simp] theorem State.retire_diag (p : Nat) : (s.retire p).diag = s.diag := rfl
@[simp] theorem State.retire_output (p : Nat) : (s.retire p).output = s.output := rfl

/-! State.halt -/

@[simp] theorem State.halt_execState (c : HaltCause) : (s.halt c).execState = .halted := rfl
@[simp] theorem State.halt_haltCause (c : HaltCause) : (s.halt c).haltCause = some c := rfl
@[simp] theorem State.halt_bpSkip (c : HaltCause) : (s.halt c).bpSkip = false := rfl
@[simp] theorem State.halt_memSize (c : HaltCause) : (s.halt c).memSize = s.memSize := rfl
@[simp] theorem State.halt_stackCap (c : HaltCause) : (s.halt c).stackCap = s.stackCap := rfl
@[simp] theorem State.halt_mem (c : HaltCause) : (s.halt c).mem = s.mem := rfl
@[simp] theorem State.halt_blueprint (c : HaltCause) : (s.halt c).blueprint = s.blueprint := rfl
@[simp] theorem State.halt_regs (c : HaltCause) : (s.halt c).regs = s.regs := rfl
@[simp] theorem State.halt_pc (c : HaltCause) : (s.halt c).pc = s.pc := rfl
@[simp] theorem State.halt_stack (c : HaltCause) : (s.halt c).stack = s.stack := rfl
@[simp] theorem State.halt_faultCause (c : HaltCause) : (s.halt c).faultCause = s.faultCause := rfl
@[simp] theorem State.halt_stop (c : HaltCause) : (s.halt c).stop = s.stop := rfl
@[simp] theorem State.halt_pause (c : HaltCause) : (s.halt c).pause = s.pause := rfl
@[simp] theorem State.halt_pauseCause (c : HaltCause) : (s.halt c).pauseCause = s.pauseCause := rfl
@[simp] theorem State.halt_bp (c : HaltCause) : (s.halt c).bp = s.bp := rfl
@[simp] theorem State.halt_inq (c : HaltCause) : (s.halt c).inq = s.inq := rfl
@[simp] theorem State.halt_diag (c : HaltCause) : (s.halt c).diag = s.diag := rfl
@[simp] theorem State.halt_output (c : HaltCause) : (s.halt c).output = s.output := rfl

/-! State.raise -/

@[simp] theorem State.raise_execState (c : FaultCause) : (s.raise c).execState = .faulted := rfl
@[simp] theorem State.raise_faultCause (c : FaultCause) : (s.raise c).faultCause = some c := rfl
@[simp] theorem State.raise_bpSkip (c : FaultCause) : (s.raise c).bpSkip = false := rfl
@[simp] theorem State.raise_diag (c : FaultCause) : (s.raise c).diag = s.diag ++ [s.record (.fatal c)] := rfl
@[simp] theorem State.raise_memSize (c : FaultCause) : (s.raise c).memSize = s.memSize := rfl
@[simp] theorem State.raise_stackCap (c : FaultCause) : (s.raise c).stackCap = s.stackCap := rfl
@[simp] theorem State.raise_mem (c : FaultCause) : (s.raise c).mem = s.mem := rfl
@[simp] theorem State.raise_blueprint (c : FaultCause) : (s.raise c).blueprint = s.blueprint := rfl
@[simp] theorem State.raise_regs (c : FaultCause) : (s.raise c).regs = s.regs := rfl
@[simp] theorem State.raise_pc (c : FaultCause) : (s.raise c).pc = s.pc := rfl
@[simp] theorem State.raise_stack (c : FaultCause) : (s.raise c).stack = s.stack := rfl
@[simp] theorem State.raise_haltCause (c : FaultCause) : (s.raise c).haltCause = s.haltCause := rfl
@[simp] theorem State.raise_stop (c : FaultCause) : (s.raise c).stop = s.stop := rfl
@[simp] theorem State.raise_pause (c : FaultCause) : (s.raise c).pause = s.pause := rfl
@[simp] theorem State.raise_pauseCause (c : FaultCause) : (s.raise c).pauseCause = s.pauseCause := rfl
@[simp] theorem State.raise_bp (c : FaultCause) : (s.raise c).bp = s.bp := rfl
@[simp] theorem State.raise_inq (c : FaultCause) : (s.raise c).inq = s.inq := rfl
@[simp] theorem State.raise_output (c : FaultCause) : (s.raise c).output = s.output := rfl

/-! State.invalidDestination -/

@[simp] theorem State.invalidDestination_pc (a : Word) (n : Nat) : (s.invalidDestination a n).pc = s.pc + n := rfl
@[simp] theorem State.invalidDestination_bpSkip (a : Word) (n : Nat) : (s.invalidDestination a n).bpSkip = false := rfl
@[simp] theorem State.invalidDestination_diag (a : Word) (n : Nat) : (s.invalidDestination a n).diag = s.diag ++ [s.record (.operandAddressError a)] := rfl
@[simp] theorem State.invalidDestination_memSize (a : Word) (n : Nat) : (s.invalidDestination a n).memSize = s.memSize := rfl
@[simp] theorem State.invalidDestination_stackCap (a : Word) (n : Nat) : (s.invalidDestination a n).stackCap = s.stackCap := rfl
@[simp] theorem State.invalidDestination_mem (a : Word) (n : Nat) : (s.invalidDestination a n).mem = s.mem := rfl
@[simp] theorem State.invalidDestination_blueprint (a : Word) (n : Nat) : (s.invalidDestination a n).blueprint = s.blueprint := rfl
@[simp] theorem State.invalidDestination_regs (a : Word) (n : Nat) : (s.invalidDestination a n).regs = s.regs := rfl
@[simp] theorem State.invalidDestination_stack (a : Word) (n : Nat) : (s.invalidDestination a n).stack = s.stack := rfl
@[simp] theorem State.invalidDestination_execState (a : Word) (n : Nat) : (s.invalidDestination a n).execState = s.execState := rfl
@[simp] theorem State.invalidDestination_haltCause (a : Word) (n : Nat) : (s.invalidDestination a n).haltCause = s.haltCause := rfl
@[simp] theorem State.invalidDestination_faultCause (a : Word) (n : Nat) : (s.invalidDestination a n).faultCause = s.faultCause := rfl
@[simp] theorem State.invalidDestination_stop (a : Word) (n : Nat) : (s.invalidDestination a n).stop = s.stop := rfl
@[simp] theorem State.invalidDestination_pause (a : Word) (n : Nat) : (s.invalidDestination a n).pause = s.pause := rfl
@[simp] theorem State.invalidDestination_pauseCause (a : Word) (n : Nat) : (s.invalidDestination a n).pauseCause = s.pauseCause := rfl
@[simp] theorem State.invalidDestination_bp (a : Word) (n : Nat) : (s.invalidDestination a n).bp = s.bp := rfl
@[simp] theorem State.invalidDestination_inq (a : Word) (n : Nat) : (s.invalidDestination a n).inq = s.inq := rfl
@[simp] theorem State.invalidDestination_output (a : Word) (n : Nat) : (s.invalidDestination a n).output = s.output := rfl

/-! State.breakpointHit -/

@[simp] theorem State.breakpointHit_execState : s.breakpointHit.execState = .paused := rfl
@[simp] theorem State.breakpointHit_pause : s.breakpointHit.pause = true := rfl
@[simp] theorem State.breakpointHit_pauseCause : s.breakpointHit.pauseCause = some .breakpoint := rfl
@[simp] theorem State.breakpointHit_bpSkip : s.breakpointHit.bpSkip = true := rfl
@[simp] theorem State.breakpointHit_diag : s.breakpointHit.diag = s.diag ++ [s.record .breakpoint] := rfl
@[simp] theorem State.breakpointHit_memSize : s.breakpointHit.memSize = s.memSize := rfl
@[simp] theorem State.breakpointHit_stackCap : s.breakpointHit.stackCap = s.stackCap := rfl
@[simp] theorem State.breakpointHit_mem : s.breakpointHit.mem = s.mem := rfl
@[simp] theorem State.breakpointHit_blueprint : s.breakpointHit.blueprint = s.blueprint := rfl
@[simp] theorem State.breakpointHit_regs : s.breakpointHit.regs = s.regs := rfl
@[simp] theorem State.breakpointHit_pc : s.breakpointHit.pc = s.pc := rfl
@[simp] theorem State.breakpointHit_stack : s.breakpointHit.stack = s.stack := rfl
@[simp] theorem State.breakpointHit_haltCause : s.breakpointHit.haltCause = s.haltCause := rfl
@[simp] theorem State.breakpointHit_faultCause : s.breakpointHit.faultCause = s.faultCause := rfl
@[simp] theorem State.breakpointHit_stop : s.breakpointHit.stop = s.stop := rfl
@[simp] theorem State.breakpointHit_bp : s.breakpointHit.bp = s.bp := rfl
@[simp] theorem State.breakpointHit_inq : s.breakpointHit.inq = s.inq := rfl
@[simp] theorem State.breakpointHit_output : s.breakpointHit.output = s.output := rfl

/-! State.raiseStop -/

@[simp] theorem State.raiseStop_stop : s.raiseStop.stop = true := rfl
@[simp] theorem State.raiseStop_memSize : s.raiseStop.memSize = s.memSize := rfl
@[simp] theorem State.raiseStop_stackCap : s.raiseStop.stackCap = s.stackCap := rfl
@[simp] theorem State.raiseStop_mem : s.raiseStop.mem = s.mem := rfl
@[simp] theorem State.raiseStop_blueprint : s.raiseStop.blueprint = s.blueprint := rfl
@[simp] theorem State.raiseStop_regs : s.raiseStop.regs = s.regs := rfl
@[simp] theorem State.raiseStop_pc : s.raiseStop.pc = s.pc := rfl
@[simp] theorem State.raiseStop_stack : s.raiseStop.stack = s.stack := rfl
@[simp] theorem State.raiseStop_execState : s.raiseStop.execState = s.execState := rfl
@[simp] theorem State.raiseStop_haltCause : s.raiseStop.haltCause = s.haltCause := rfl
@[simp] theorem State.raiseStop_faultCause : s.raiseStop.faultCause = s.faultCause := rfl
@[simp] theorem State.raiseStop_pause : s.raiseStop.pause = s.pause := rfl
@[simp] theorem State.raiseStop_pauseCause : s.raiseStop.pauseCause = s.pauseCause := rfl
@[simp] theorem State.raiseStop_bp : s.raiseStop.bp = s.bp := rfl
@[simp] theorem State.raiseStop_bpSkip : s.raiseStop.bpSkip = s.bpSkip := rfl
@[simp] theorem State.raiseStop_inq : s.raiseStop.inq = s.inq := rfl
@[simp] theorem State.raiseStop_diag : s.raiseStop.diag = s.diag := rfl
@[simp] theorem State.raiseStop_output : s.raiseStop.output = s.output := rfl

/-! State.raisePause -/

@[simp] theorem State.raisePause_pause (c : PauseCause) : (s.raisePause c).pause = true := rfl
@[simp] theorem State.raisePause_pauseCause (c : PauseCause) : (s.raisePause c).pauseCause = some c := rfl
@[simp] theorem State.raisePause_memSize (c : PauseCause) : (s.raisePause c).memSize = s.memSize := rfl
@[simp] theorem State.raisePause_stackCap (c : PauseCause) : (s.raisePause c).stackCap = s.stackCap := rfl
@[simp] theorem State.raisePause_mem (c : PauseCause) : (s.raisePause c).mem = s.mem := rfl
@[simp] theorem State.raisePause_blueprint (c : PauseCause) : (s.raisePause c).blueprint = s.blueprint := rfl
@[simp] theorem State.raisePause_regs (c : PauseCause) : (s.raisePause c).regs = s.regs := rfl
@[simp] theorem State.raisePause_pc (c : PauseCause) : (s.raisePause c).pc = s.pc := rfl
@[simp] theorem State.raisePause_stack (c : PauseCause) : (s.raisePause c).stack = s.stack := rfl
@[simp] theorem State.raisePause_execState (c : PauseCause) : (s.raisePause c).execState = s.execState := rfl
@[simp] theorem State.raisePause_haltCause (c : PauseCause) : (s.raisePause c).haltCause = s.haltCause := rfl
@[simp] theorem State.raisePause_faultCause (c : PauseCause) : (s.raisePause c).faultCause = s.faultCause := rfl
@[simp] theorem State.raisePause_stop (c : PauseCause) : (s.raisePause c).stop = s.stop := rfl
@[simp] theorem State.raisePause_bp (c : PauseCause) : (s.raisePause c).bp = s.bp := rfl
@[simp] theorem State.raisePause_bpSkip (c : PauseCause) : (s.raisePause c).bpSkip = s.bpSkip := rfl
@[simp] theorem State.raisePause_inq (c : PauseCause) : (s.raisePause c).inq = s.inq := rfl
@[simp] theorem State.raisePause_diag (c : PauseCause) : (s.raisePause c).diag = s.diag := rfl
@[simp] theorem State.raisePause_output (c : PauseCause) : (s.raisePause c).output = s.output := rfl

/-! State.clearPause -/

@[simp] theorem State.clearPause_pause : s.clearPause.pause = false := rfl
@[simp] theorem State.clearPause_pauseCause : s.clearPause.pauseCause = none := rfl
@[simp] theorem State.clearPause_memSize : s.clearPause.memSize = s.memSize := rfl
@[simp] theorem State.clearPause_stackCap : s.clearPause.stackCap = s.stackCap := rfl
@[simp] theorem State.clearPause_mem : s.clearPause.mem = s.mem := rfl
@[simp] theorem State.clearPause_blueprint : s.clearPause.blueprint = s.blueprint := rfl
@[simp] theorem State.clearPause_regs : s.clearPause.regs = s.regs := rfl
@[simp] theorem State.clearPause_pc : s.clearPause.pc = s.pc := rfl
@[simp] theorem State.clearPause_stack : s.clearPause.stack = s.stack := rfl
@[simp] theorem State.clearPause_execState : s.clearPause.execState = s.execState := rfl
@[simp] theorem State.clearPause_haltCause : s.clearPause.haltCause = s.haltCause := rfl
@[simp] theorem State.clearPause_faultCause : s.clearPause.faultCause = s.faultCause := rfl
@[simp] theorem State.clearPause_stop : s.clearPause.stop = s.stop := rfl
@[simp] theorem State.clearPause_bp : s.clearPause.bp = s.bp := rfl
@[simp] theorem State.clearPause_bpSkip : s.clearPause.bpSkip = s.bpSkip := rfl
@[simp] theorem State.clearPause_inq : s.clearPause.inq = s.inq := rfl
@[simp] theorem State.clearPause_diag : s.clearPause.diag = s.diag := rfl
@[simp] theorem State.clearPause_output : s.clearPause.output = s.output := rfl

/-! hostReset -/

@[simp] theorem hostReset_mem : (hostReset s).mem = s.blueprint := rfl
@[simp] theorem hostReset_regs : (hostReset s).regs = Vector.replicate 8 0 := rfl
@[simp] theorem hostReset_pc : (hostReset s).pc = 0 := rfl
@[simp] theorem hostReset_stack : (hostReset s).stack = [] := rfl
@[simp] theorem hostReset_execState : (hostReset s).execState = .idle := rfl
@[simp] theorem hostReset_haltCause : (hostReset s).haltCause = none := rfl
@[simp] theorem hostReset_faultCause : (hostReset s).faultCause = none := rfl
@[simp] theorem hostReset_stop : (hostReset s).stop = false := rfl
@[simp] theorem hostReset_pause : (hostReset s).pause = false := rfl
@[simp] theorem hostReset_pauseCause : (hostReset s).pauseCause = none := rfl
@[simp] theorem hostReset_bpSkip : (hostReset s).bpSkip = false := rfl
@[simp] theorem hostReset_memSize : (hostReset s).memSize = s.memSize := rfl
@[simp] theorem hostReset_stackCap : (hostReset s).stackCap = s.stackCap := rfl
@[simp] theorem hostReset_blueprint : (hostReset s).blueprint = s.blueprint := rfl
@[simp] theorem hostReset_bp : (hostReset s).bp = s.bp := rfl
@[simp] theorem hostReset_inq : (hostReset s).inq = s.inq := rfl
@[simp] theorem hostReset_diag : (hostReset s).diag = s.diag := rfl
@[simp] theorem hostReset_output : (hostReset s).output = s.output := rfl

/-! hostAddBreakpoint -/

@[simp] theorem hostAddBreakpoint_bp (a : Nat) : (hostAddBreakpoint a s).bp = insertAddress a s.bp := rfl
@[simp] theorem hostAddBreakpoint_memSize (a : Nat) : (hostAddBreakpoint a s).memSize = s.memSize := rfl
@[simp] theorem hostAddBreakpoint_stackCap (a : Nat) : (hostAddBreakpoint a s).stackCap = s.stackCap := rfl
@[simp] theorem hostAddBreakpoint_mem (a : Nat) : (hostAddBreakpoint a s).mem = s.mem := rfl
@[simp] theorem hostAddBreakpoint_blueprint (a : Nat) : (hostAddBreakpoint a s).blueprint = s.blueprint := rfl
@[simp] theorem hostAddBreakpoint_regs (a : Nat) : (hostAddBreakpoint a s).regs = s.regs := rfl
@[simp] theorem hostAddBreakpoint_pc (a : Nat) : (hostAddBreakpoint a s).pc = s.pc := rfl
@[simp] theorem hostAddBreakpoint_stack (a : Nat) : (hostAddBreakpoint a s).stack = s.stack := rfl
@[simp] theorem hostAddBreakpoint_execState (a : Nat) : (hostAddBreakpoint a s).execState = s.execState := rfl
@[simp] theorem hostAddBreakpoint_haltCause (a : Nat) : (hostAddBreakpoint a s).haltCause = s.haltCause := rfl
@[simp] theorem hostAddBreakpoint_faultCause (a : Nat) : (hostAddBreakpoint a s).faultCause = s.faultCause := rfl
@[simp] theorem hostAddBreakpoint_stop (a : Nat) : (hostAddBreakpoint a s).stop = s.stop := rfl
@[simp] theorem hostAddBreakpoint_pause (a : Nat) : (hostAddBreakpoint a s).pause = s.pause := rfl
@[simp] theorem hostAddBreakpoint_pauseCause (a : Nat) : (hostAddBreakpoint a s).pauseCause = s.pauseCause := rfl
@[simp] theorem hostAddBreakpoint_bpSkip (a : Nat) : (hostAddBreakpoint a s).bpSkip = s.bpSkip := rfl
@[simp] theorem hostAddBreakpoint_inq (a : Nat) : (hostAddBreakpoint a s).inq = s.inq := rfl
@[simp] theorem hostAddBreakpoint_diag (a : Nat) : (hostAddBreakpoint a s).diag = s.diag := rfl
@[simp] theorem hostAddBreakpoint_output (a : Nat) : (hostAddBreakpoint a s).output = s.output := rfl

/-! hostInsertInput -/

@[simp] theorem hostInsertInput_inq (l : List Byte) : (hostInsertInput l s).inq = s.inq ++ l := rfl
@[simp] theorem hostInsertInput_memSize (l : List Byte) : (hostInsertInput l s).memSize = s.memSize := rfl
@[simp] theorem hostInsertInput_stackCap (l : List Byte) : (hostInsertInput l s).stackCap = s.stackCap := rfl
@[simp] theorem hostInsertInput_mem (l : List Byte) : (hostInsertInput l s).mem = s.mem := rfl
@[simp] theorem hostInsertInput_blueprint (l : List Byte) : (hostInsertInput l s).blueprint = s.blueprint := rfl
@[simp] theorem hostInsertInput_regs (l : List Byte) : (hostInsertInput l s).regs = s.regs := rfl
@[simp] theorem hostInsertInput_pc (l : List Byte) : (hostInsertInput l s).pc = s.pc := rfl
@[simp] theorem hostInsertInput_stack (l : List Byte) : (hostInsertInput l s).stack = s.stack := rfl
@[simp] theorem hostInsertInput_execState (l : List Byte) : (hostInsertInput l s).execState = s.execState := rfl
@[simp] theorem hostInsertInput_haltCause (l : List Byte) : (hostInsertInput l s).haltCause = s.haltCause := rfl
@[simp] theorem hostInsertInput_faultCause (l : List Byte) : (hostInsertInput l s).faultCause = s.faultCause := rfl
@[simp] theorem hostInsertInput_stop (l : List Byte) : (hostInsertInput l s).stop = s.stop := rfl
@[simp] theorem hostInsertInput_pause (l : List Byte) : (hostInsertInput l s).pause = s.pause := rfl
@[simp] theorem hostInsertInput_pauseCause (l : List Byte) : (hostInsertInput l s).pauseCause = s.pauseCause := rfl
@[simp] theorem hostInsertInput_bp (l : List Byte) : (hostInsertInput l s).bp = s.bp := rfl
@[simp] theorem hostInsertInput_bpSkip (l : List Byte) : (hostInsertInput l s).bpSkip = s.bpSkip := rfl
@[simp] theorem hostInsertInput_diag (l : List Byte) : (hostInsertInput l s).diag = s.diag := rfl
@[simp] theorem hostInsertInput_output (l : List Byte) : (hostInsertInput l s).output = s.output := rfl

/-! Reading a register after a write (R20). -/

theorem setReg_get_same (r : Fin 8) (v : Word) : (s.setReg r v).regs[r] = v := by simp

theorem setReg_get_ne {r q : Fin 8} (v : Word) (h : r ≠ q) : (s.setReg r v).regs[q] = s.regs[q] := by
  simp only [State.setReg]
  exact Vector.getElem_set_ne _ _ fun e => h (Fin.ext e)

theorem stackFull_eq_true : s.stackFull = true ↔ s.stackCap = some s.stack.length := by
  simp [State.stackFull, State.depth]

theorem stackFull_eq_false : s.stackFull = false ↔ s.stackCap ≠ some s.stack.length := by
  rw [← Bool.not_eq_true, stackFull_eq_true]

end Sys2Proof.Machine
end

