-- ==== Sys2Proof/Laws/Operands.lean ====
section
/-! SUPPORT. What the operand functions and the two tests every instruction shares can do (R72, R91 to R96). -/

namespace Sys2Proof.Machine

theorem classify_literal {w : Word} (h : w.toNat ≤ 32767) : classify w = .literal w := if_pos h

theorem classify_register {w : Word} {r : Fin 8} (h : w.toNat = 32768 + r.val) : classify w = .register r := by
  have hr : w.toNat - 32768 < 8 := by omega
  unfold classify
  rw [if_neg (by simp only [Config.litMax]; omega), dif_pos hr]
  exact congrArg OperandClass.register (Fin.ext (by simp only [Config.regBase]; omega))

theorem classify_malformed {w : Word} (h : 32776 ≤ w.toNat) : classify w = .malformed := by
  unfold classify
  rw [if_neg (by simp only [Config.litMax]; omega), dif_neg (by simp only [Config.regBase]; omega)]

/-- Every operand word is in exactly one of the three ranges of R72. -/
theorem operand_ranges (w : Word) :
    w.toNat ≤ 32767 ∨ (∃ r : Fin 8, w.toNat = 32768 + r.val) ∨ 32776 ≤ w.toNat := by
  by_cases h1 : w.toNat ≤ 32767
  · exact .inl h1
  · by_cases h2 : w.toNat - 32768 < 8
    · exact .inr (.inl ⟨⟨w.toNat - 32768, h2⟩, by simp; omega⟩)
    · exact .inr (.inr (by omega))

theorem rd_of_literal {s : State} {w v : Word} (h : classify w = .literal v) : rd s w = some v := by
  unfold rd; rw [h]

theorem rd_of_register {s : State} {w : Word} {r : Fin 8} (h : classify w = .register r) : rd s w = some s.regs[r] := by
  unfold rd; rw [h]

theorem rd_of_malformed {s : State} {w : Word} (h : classify w = .malformed) : rd s w = none := by
  unfold rd; rw [h]

theorem dst_of_literal {w v : Word} (h : classify w = .literal v) : dst w = none := by
  unfold dst; rw [h]

theorem dst_of_register {w : Word} {r : Fin 8} (h : classify w = .register r) : dst w = some r := by
  unfold dst; rw [h]

theorem dst_of_malformed {w : Word} (h : classify w = .malformed) : dst w = none := by
  unfold dst; rw [h]

/-- A valid destination is the register reference of its register (R93). -/
theorem dst_eq_some {w : Word} {r : Fin 8} : dst w = some r ↔ w.toNat = 32768 + r.val := by
  rcases operand_ranges w with h | ⟨q, h⟩ | h
  · rw [dst_of_literal (classify_literal h)]
    simp only [reduceCtorEq, false_iff]; omega
  · rw [dst_of_register (classify_register h)]
    simp only [Option.some.injEq, Fin.ext_iff]; omega
  · rw [dst_of_malformed (classify_malformed h)]
    simp only [reduceCtorEq, false_iff]; omega

/-- A source fails to resolve exactly when it is malformed (R92). -/
theorem rd_eq_none {s : State} {w : Word} : rd s w = none ↔ 32776 ≤ w.toNat := by
  rcases operand_ranges w with h | ⟨q, h⟩ | h
  · rw [rd_of_literal (classify_literal h)]
    simp only [reduceCtorEq, false_iff]; omega
  · rw [rd_of_register (classify_register h)]
    simp only [reduceCtorEq, false_iff]; omega
  · rw [rd_of_malformed (classify_malformed h)]
    simp only [true_iff]; exact h

/-- `rd` looks at the register file and at nothing else. -/
theorem rd_congr {s t : State} (h : s.regs = t.regs) (w : Word) : rd s w = rd t w := by
  unfold rd
  rw [h]

theorem withDst_some {a : Word} {n : Nat} {s : State} {k : Fin 8 → State} {r : Fin 8} (h : dst a = some r) :
    withDst a n s k = k r := by
  unfold withDst; rw [h]

theorem withDst_none {a : Word} {n : Nat} {s : State} {k : Fin 8 → State} (h : dst a = none) :
    withDst a n s k = s.invalidDestination a n := by
  unfold withDst; rw [h]

theorem withRd_some {w : Word} {s : State} {k : Word → State} {v : Word} (h : rd s w = some v) :
    withRd w s k = k v := by
  unfold withRd; rw [h]

theorem withRd_none {w : Word} {s : State} {k : Word → State} (h : rd s w = none) :
    withRd w s k = s.raise (.malformedOperand w) := by
  unfold withRd; rw [h]

/-- What holds of the no-op and of the rest of the instruction holds after the destination test. -/
theorem withDst_rule {P : State → Prop} {a : Word} {n : Nat} {s : State} {k : Fin 8 → State}
    (bad : dst a = none → P (s.invalidDestination a n)) (ok : ∀ r, dst a = some r → P (k r)) : P (withDst a n s k) := by
  cases h : dst a with
  | none => rw [withDst_none h]; exact bad h
  | some r => rw [withDst_some h]; exact ok r h

/-- What holds of the fault and of the rest of the instruction holds after a source is resolved. -/
theorem withRd_rule {P : State → Prop} {w : Word} {s : State} {k : Word → State}
    (bad : rd s w = none → P (s.raise (.malformedOperand w))) (ok : ∀ v, rd s w = some v → P (k v)) :
    P (withRd w s k) := by
  cases h : rd s w with
  | none => rw [withRd_none h]; exact bad h
  | some v => rw [withRd_some h]; exact ok v h

end Sys2Proof.Machine
end

