-- ==== Sys2Proof/Laws/Exec.lean ====
section
/-! SUPPORT. What an instruction can do, said once: how it can end (`Ending`, R15) and what a completing one can have
written before its pc (`Effect`, R52, R95). Later proofs split on `exec_cases` instead of unfolding the meanings. -/

namespace Sys2Proof.Machine

/-! The meaning each instruction is given (exec's arms). -/

section Arms

variable (a b c : Word) (s : State)

@[simp] theorem exec_halt : exec .halt s = execHalt s := rfl
@[simp] theorem exec_set : exec (.set a b) s = execSet a b s := rfl
@[simp] theorem exec_push : exec (.push a) s = execPush a s := rfl
@[simp] theorem exec_pop : exec (.pop a) s = execPop a s := rfl
@[simp] theorem exec_eq : exec (.eq a b c) s = execEq a b c s := rfl
@[simp] theorem exec_gt : exec (.gt a b c) s = execGt a b c s := rfl
@[simp] theorem exec_jmp : exec (.jmp a) s = execJmp a s := rfl
@[simp] theorem exec_jt : exec (.jt a b) s = execJt a b s := rfl
@[simp] theorem exec_jf : exec (.jf a b) s = execJf a b s := rfl
@[simp] theorem exec_add : exec (.add a b c) s = execAdd a b c s := rfl
@[simp] theorem exec_mult : exec (.mult a b c) s = execMult a b c s := rfl
@[simp] theorem exec_mod : exec (.mod a b c) s = execMod a b c s := rfl
@[simp] theorem exec_and : exec (.and a b c) s = execAnd a b c s := rfl
@[simp] theorem exec_or : exec (.or a b c) s = execOr a b c s := rfl
@[simp] theorem exec_not : exec (.not a b) s = execNot a b s := rfl
@[simp] theorem exec_rmem : exec (.rmem a b) s = execRmem a b s := rfl
@[simp] theorem exec_wmem : exec (.wmem a b) s = execWmem a b s := rfl
@[simp] theorem exec_call : exec (.call a) s = execCall a s := rfl
@[simp] theorem exec_ret : exec .ret s = execRet s := rfl
@[simp] theorem exec_out : exec (.out a) s = execOut a s := rfl
@[simp] theorem exec_in : exec (.in_ a) s = execIn a s := rfl
@[simp] theorem exec_noop : exec .noop s = execNoop s := rfl

end Arms

/-- What a completing instruction `i` can have written in `s`, the pc and `BPSKIP` left out. -/
inductive Effect (i : Instr) (s : State) : State → Prop
  | nothing : Effect i s s
  | register (r : Fin 8) (v : Word) (dest : i.destination.bind dst = some r) : Effect i s (s.setReg r v)
  | pushed (v : Word) (who : (∃ a, i = .push a) ∨ ∃ a, i = .call a) (room : s.stackFull = false) :
      Effect i s (s.pushWord v)
  | popped (a : Word) (r : Fin 8) (v : Word) (who : i = .pop a) (dest : dst a = some r) (top : s.top = some v) :
      Effect i s (s.dropTop.setReg r v)
  | returned (t : Word) (who : i = .ret) (top : s.top = some t) : Effect i s s.dropTop
  | stored (a b addr v : Word) (who : i = .wmem a b) (ha : rd s a = some addr) (hb : rd s b = some v)
      (range : addr.toNat < s.memSize) : Effect i s { s with mem := s.mem.write addr.toNat v }
  | emitted (a : Word) (b : Byte) (who : i = .out a) : Effect i s (s.emit b)
  | consumed (a : Word) (r : Fin 8) (b : Byte) (rest : List Byte) (who : i = .in_ a) (dest : dst a = some r)
      (queue : s.inq = b :: rest) : Effect i s (s.dropInput.setReg r (b.setWidth 16))

/-- How instruction `i` executed in `s` can end (R15): a fatal fault, the reported no-op, a benign halt, the IN stall, or
completion with the pc at a jump's target in memory or past the instruction. -/
inductive Ending (i : Instr) (s : State) : State → Prop
  | raised (cause : FaultCause) : Ending i s (s.raise cause)
  | skipped (a : Word) (dest : i.destination = some a) (bad : dst a = none) :
      Ending i s (s.invalidDestination a i.width)
  | halted (cause : HaltCause)
      (why : (i = .halt ∧ cause = .haltInstruction) ∨ (i = .ret ∧ s.stack = [] ∧ cause = .retEmptyStack)) :
      Ending i s (s.halt cause)
  | stalled (a : Word) (r : Fin 8) (who : i = .in_ a) (dest : dst a = some r) (empty : s.inq = []) : Ending i s s
  | completed (u : State) (p : Nat) (effect : Effect i s u) (target : p < s.memSize ∨ p = s.pc + i.width) :
      Ending i s (u.retire p)

/-- No effect of a completing instruction reaches the host's state, the cause registers, the parameters or `DIAG`. -/
theorem Effect.frame {i : Instr} {s u : State} (e : Effect i s u) :
    u.memSize = s.memSize ∧ u.stackCap = s.stackCap ∧ u.blueprint = s.blueprint ∧ u.pc = s.pc ∧
    u.execState = s.execState ∧ u.haltCause = s.haltCause ∧ u.faultCause = s.faultCause ∧ u.stop = s.stop ∧
    u.pause = s.pause ∧ u.pauseCause = s.pauseCause ∧ u.bp = s.bp ∧ u.bpSkip = s.bpSkip ∧ u.diag = s.diag := by
  cases e <;> simp

theorem top_eq_none {s : State} : s.top = none ↔ s.stack = [] := List.getLast?_eq_none_iff

theorem top_eq_some {s : State} {v : Word} : s.top = some v ↔ ∃ rest, s.stack = rest ++ [v] :=
  List.getLast?_eq_some_iff

theorem jumpTo_in {t : Word} {s : State} (h : t.toNat < s.memSize) : jumpTo t s = s.retire t.toNat := if_pos h

theorem jumpTo_out {t : Word} {s : State} (h : s.memSize ≤ t.toNat) : jumpTo t s = s.raise (.pcOutOfRange t) :=
  if_neg (by omega)

theorem jumpTo_ending (i : Instr) (t : Word) (s : State) : Ending i s (jumpTo t s) := by
  by_cases h : t.toNat < s.memSize
  · rw [jumpTo_in h]; exact .completed s _ .nothing (.inl h)
  · rw [jumpTo_out (by omega)]; exact .raised _

/-- A value reduced modulo 32768 (R119). -/
theorem reduce_toNat (n : Nat) : (reduce n).toNat = n % 32768 := by
  unfold reduce
  simp only [BitVec.toNat_ofNat, Config.modulus]
  omega

/-- What the three-operand forms do on each class of operands (R110). -/
theorem aluOp3_spec (f : Word → Word → Word) (a b c : Word) (s : State) :
    (dst a = none → aluOp3 f a b c s = s.invalidDestination a 4) ∧
    (∀ r, dst a = some r → rd s b = none → aluOp3 f a b c s = s.raise (.malformedOperand b)) ∧
    (∀ r vb, dst a = some r → rd s b = some vb → rd s c = none →
      aluOp3 f a b c s = s.raise (.malformedOperand c)) ∧
    (∀ r vb vc, dst a = some r → rd s b = some vb → rd s c = some vc →
      aluOp3 f a b c s = (s.setReg r (f vb vc)).retire (s.pc + 4)) := by
  refine ⟨fun h => withDst_none h, fun r h1 h2 => ?_, fun r vb h1 h2 h3 => ?_, fun r vb vc h1 h2 h3 => ?_⟩ <;>
    unfold aluOp3
  · rw [withDst_some h1, withRd_none h2]
  · rw [withDst_some h1, withRd_some h2, withRd_none h3]
  · rw [withDst_some h1, withRd_some h2, withRd_some h3]

/-- The three-operand forms (R110): the no-op, a malformed source, or the function's value in the destination. -/
theorem aluOp3_ending {i : Instr} {f : Word → Word → Word} {a b c : Word} {s : State} (hd : i.destination = some a)
    (hw : i.width = 4) : Ending i s (aluOp3 f a b c s) := by
  refine withDst_rule (fun h => ?_) fun r hr => withRd_rule (fun _ => .raised _) fun vb _ =>
    withRd_rule (fun _ => .raised _) fun vc _ => ?_
  · have := Ending.skipped (s := s) a hd h
    rwa [hw] at this
  · exact .completed _ _ (.register r _ (by rw [hd]; exact hr)) (.inr (by rw [hw]))

/-- Every instruction answers a next state, and this is all it can be. -/
theorem exec_ending (i : Instr) (s : State) : ∃ t, exec i s = .next t ∧ Ending i s t := by
  have skip {a : Word} {n : Nat} (hd : i.destination = some a) (hw : i.width = n) (h : dst a = none) :
      Ending i s (s.invalidDestination a n) := hw ▸ .skipped a hd h
  have reg {r : Fin 8} {v : Word} {n : Nat} (hd : i.destination.bind dst = some r) (hw : i.width = n) :
      Ending i s ((s.setReg r v).retire (s.pc + n)) := .completed _ _ (.register r v hd) (.inr (by rw [hw]))
  cases i with
  | halt =>
    exact ⟨_, rfl, .halted _ (.inl ⟨rfl, rfl⟩)⟩
  | set a b =>
    exact ⟨_, rfl, withDst_rule (skip rfl rfl) fun r hr => withRd_rule (fun _ => .raised _) fun v _ => reg hr rfl⟩
  | push a =>
    refine ⟨_, rfl, ?_⟩
    refine withRd_rule (fun _ => .raised _) fun v _ => ?_
    split_ifs with h
    · exact .raised _
    · exact .completed _ _ (.pushed v (.inl ⟨a, rfl⟩) (by simpa using h)) (.inr rfl)
  | pop a =>
    refine ⟨_, rfl, ?_⟩
    refine withDst_rule (skip rfl rfl) fun r hr => ?_
    split
    · exact .raised _
    · rename_i v hv
      exact .completed _ _ (.popped a r v rfl hr hv) (.inr rfl)
  | eq a b c =>
    exact ⟨_, rfl, aluOp3_ending rfl rfl⟩
  | gt a b c =>
    exact ⟨_, rfl, aluOp3_ending rfl rfl⟩
  | jmp a =>
    exact ⟨_, rfl, withRd_rule (fun _ => .raised _) fun t _ => jumpTo_ending _ t s⟩
  | jt a b =>
    refine ⟨_, rfl, ?_⟩
    refine withRd_rule (fun _ => .raised _) fun va _ => withRd_rule (fun _ => .raised _) fun t _ => ?_
    split_ifs
    · exact jumpTo_ending _ t s
    · exact .completed _ _ .nothing (.inr rfl)
  | jf a b =>
    refine ⟨_, rfl, ?_⟩
    refine withRd_rule (fun _ => .raised _) fun va _ => withRd_rule (fun _ => .raised _) fun t _ => ?_
    split_ifs
    · exact jumpTo_ending _ t s
    · exact .completed _ _ .nothing (.inr rfl)
  | add a b c =>
    exact ⟨_, rfl, aluOp3_ending rfl rfl⟩
  | mult a b c =>
    exact ⟨_, rfl, aluOp3_ending rfl rfl⟩
  | mod a b c =>
    refine ⟨_, rfl, ?_⟩
    refine withDst_rule (skip rfl rfl) fun r hr => withRd_rule (fun _ => .raised _) fun vb _ =>
      withRd_rule (fun _ => .raised _) fun vc _ => ?_
    split_ifs
    · exact .raised _
    · exact reg hr rfl
  | and a b c =>
    exact ⟨_, rfl, aluOp3_ending rfl rfl⟩
  | or a b c =>
    exact ⟨_, rfl, aluOp3_ending rfl rfl⟩
  | not a b =>
    exact ⟨_, rfl, withDst_rule (skip rfl rfl) fun r hr => withRd_rule (fun _ => .raised _) fun v _ => reg hr rfl⟩
  | rmem a b =>
    refine ⟨_, rfl, ?_⟩
    refine withDst_rule (skip rfl rfl) fun r hr => withRd_rule (fun _ => .raised _) fun addr _ => ?_
    split
    · exact .raised _
    · exact reg hr rfl
  | wmem a b =>
    refine ⟨_, rfl, ?_⟩
    refine withRd_rule (fun _ => .raised _) fun addr ha => withRd_rule (fun _ => .raised _) fun v hb => ?_
    split
    · exact .raised _
    · rename_i t ht
      obtain ⟨hlt, rfl⟩ := State.memWrite_eq_some.mp ht
      exact .completed _ _ (.stored a b addr v rfl ha hb hlt) (.inr rfl)
  | call a =>
    refine ⟨_, rfl, ?_⟩
    refine withRd_rule (fun _ => .raised _) fun t _ => ?_
    split_ifs with h1 h2 h3
    · exact .raised _
    · exact .raised _
    · exact .raised _
    · exact .completed _ _ (.pushed _ (.inr ⟨a, rfl⟩) (by simpa using h3)) (.inl (by omega))
  | ret =>
    refine ⟨_, rfl, ?_⟩
    split
    · rename_i h
      exact .halted _ (.inr ⟨rfl, top_eq_none.mp h, rfl⟩)
    · rename_i t ht
      split_ifs with h
      · exact .completed _ _ (.returned t rfl ht) (.inl h)
      · exact .raised _
  | out a =>
    refine ⟨_, rfl, ?_⟩
    refine withRd_rule (fun _ => .raised _) fun v _ => ?_
    split_ifs
    · exact .raised _
    · exact .completed _ _ (.emitted a _ rfl) (.inr rfl)
  | in_ a =>
    refine ⟨_, rfl, ?_⟩
    refine withDst_rule (skip rfl rfl) fun r hr => ?_
    split
    · rename_i h
      exact .stalled a r rfl hr h
    · rename_i b rest h
      exact .completed _ _ (.consumed a r b rest rfl hr h) (.inr rfl)
  | noop =>
    exact ⟨_, rfl, .completed _ _ .nothing (.inr rfl)⟩

/-- The inversion of `exec`: a next state it answers is one of its endings. -/
theorem exec_cases {i : Instr} {s t : State} (h : exec i s = .next t) : Ending i s t := by
  obtain ⟨u, hu, e⟩ := exec_ending i s
  rw [h] at hu
  cases hu
  exact e

end Sys2Proof.Machine
end

