-- ==== Sys2Proof/Laws/HostOps.lean ====
section
/-! SUPPORT. The helpers of the host's operations: insertion in the breakpoint set (R35, R158) and the words of an image
(R54, R213). -/

namespace Sys2Proof

/-- An even number of bytes makes half as many words, each from its two bytes, low byte first (R213). -/
theorem wordsOfBytes_even : ∀ (bytes : List Byte) (len : Nat), bytes.length = 2 * len →
    ∃ ws, wordsOfBytes bytes = some ws ∧ ws.length = len ∧ ∀ k, k < len →
      (ws.getD k 0).toNat = (bytes.getD (2 * k) 0).toNat + 256 * (bytes.getD (2 * k + 1) 0).toNat
  | [], len, h => ⟨[], rfl, by simp at h ⊢; omega, fun k hk => by simp at h; omega⟩
  | [_], len, h => by simp at h; omega
  | lo :: hi :: rest, len, h => by
    obtain ⟨ws, h1, h2, h3⟩ := wordsOfBytes_even rest (len - 1) (by simp at h; omega)
    refine ⟨(hi ++ lo) :: ws, by simp [wordsOfBytes, h1], by simp at h ⊢; omega, fun k hk => ?_⟩
    cases k with
    | zero =>
      simp only [List.getD_cons_zero, Nat.mul_zero, Nat.zero_add, List.getD_cons_succ]
      rw [BitVec.toNat_append, Nat.shiftLeft_eq, Nat.mul_comm, ← Nat.two_pow_add_eq_or_of_lt lo.isLt]
      omega
    | succ k =>
      have := h3 k (by omega)
      rw [show 2 * (k + 1) = 2 * k + 1 + 1 by omega]
      simpa using this

/-- An odd number of bytes has no words (R212, D3). -/
theorem wordsOfBytes_odd : ∀ (bytes : List Byte), bytes.length % 2 = 1 → wordsOfBytes bytes = none
  | [], h => by simp at h
  | [_], _ => rfl
  | _ :: _ :: rest, h => by simp [wordsOfBytes, wordsOfBytes_odd rest (by simp at h; omega)]

namespace Machine

theorem mem_insertAddress {x addr : Nat} : ∀ {l : List Nat}, x ∈ insertAddress addr l ↔ x = addr ∨ x ∈ l
  | [] => by simp [insertAddress]
  | a :: l => by
    unfold insertAddress
    split_ifs with h1 h2
    · simp
    · subst h2; simp
    · simp only [List.mem_cons, mem_insertAddress (l := l)]; tauto

theorem pairwise_insertAddress {addr : Nat} : ∀ {l : List Nat}, l.Pairwise (· < ·) →
    (insertAddress addr l).Pairwise (· < ·)
  | [], _ => by simp [insertAddress]
  | a :: l, h => by
    have h' := List.pairwise_cons.mp h
    unfold insertAddress
    split_ifs with h1 h2
    · refine List.pairwise_cons.mpr ⟨fun x hx => ?_, h⟩
      rcases List.mem_cons.mp hx with rfl | hx
      · exact h1
      · exact h1.trans (h'.1 x hx)
    · exact h
    · refine List.pairwise_cons.mpr ⟨fun x hx => ?_, pairwise_insertAddress h'.2⟩
      rcases mem_insertAddress.mp hx with rfl | hx
      · omega
      · exact h'.1 x hx

end Machine

end Sys2Proof
end

