-- ==== Sys2Proof/Laws/PerInstr.lean ====
section
/-! SUPPORT. What is stated of every instruction as syntax, one lemma per constructor. `EncodingShape`: the words of an
instruction are as many as its width, at most four (R70), the first is an opcode number 0 to 21 (R75), and a destination
operand is the word after it (R95). -/

namespace Sys2Proof.Laws.EncodingShape

/-- The shape of an instruction's encoding (R70, R75, R95). -/
def Statement (i : Instr) : Prop :=
  (encode i).length = i.width ∧ i.width ≤ 4 ∧ i.opcode.toNat ≤ 21 ∧
    (i.destination = none ∨ i.destination = (encode i)[1]?)

theorem halt : Statement .halt := ⟨rfl, by decide, by decide, Or.inl rfl⟩
theorem set (a b : Word) : Statement (.set a b) := ⟨rfl, Nat.le_of_ble_eq_true rfl, Nat.le_of_ble_eq_true rfl, Or.inr rfl⟩
theorem push (a : Word) : Statement (.push a) := ⟨rfl, Nat.le_of_ble_eq_true rfl, Nat.le_of_ble_eq_true rfl, Or.inl rfl⟩
theorem pop (a : Word) : Statement (.pop a) := ⟨rfl, Nat.le_of_ble_eq_true rfl, Nat.le_of_ble_eq_true rfl, Or.inr rfl⟩
theorem eq (a b c : Word) : Statement (.eq a b c) := ⟨rfl, Nat.le_of_ble_eq_true rfl, Nat.le_of_ble_eq_true rfl, Or.inr rfl⟩
theorem gt (a b c : Word) : Statement (.gt a b c) := ⟨rfl, Nat.le_of_ble_eq_true rfl, Nat.le_of_ble_eq_true rfl, Or.inr rfl⟩
theorem jmp (a : Word) : Statement (.jmp a) := ⟨rfl, Nat.le_of_ble_eq_true rfl, Nat.le_of_ble_eq_true rfl, Or.inl rfl⟩
theorem jt (a b : Word) : Statement (.jt a b) := ⟨rfl, Nat.le_of_ble_eq_true rfl, Nat.le_of_ble_eq_true rfl, Or.inl rfl⟩
theorem jf (a b : Word) : Statement (.jf a b) := ⟨rfl, Nat.le_of_ble_eq_true rfl, Nat.le_of_ble_eq_true rfl, Or.inl rfl⟩
theorem add (a b c : Word) : Statement (.add a b c) := ⟨rfl, Nat.le_of_ble_eq_true rfl, Nat.le_of_ble_eq_true rfl, Or.inr rfl⟩
theorem mult (a b c : Word) : Statement (.mult a b c) := ⟨rfl, Nat.le_of_ble_eq_true rfl, Nat.le_of_ble_eq_true rfl, Or.inr rfl⟩
theorem mod (a b c : Word) : Statement (.mod a b c) := ⟨rfl, Nat.le_of_ble_eq_true rfl, Nat.le_of_ble_eq_true rfl, Or.inr rfl⟩
theorem and (a b c : Word) : Statement (.and a b c) := ⟨rfl, Nat.le_of_ble_eq_true rfl, Nat.le_of_ble_eq_true rfl, Or.inr rfl⟩
theorem or (a b c : Word) : Statement (.or a b c) := ⟨rfl, Nat.le_of_ble_eq_true rfl, Nat.le_of_ble_eq_true rfl, Or.inr rfl⟩
theorem not (a b : Word) : Statement (.not a b) := ⟨rfl, Nat.le_of_ble_eq_true rfl, Nat.le_of_ble_eq_true rfl, Or.inr rfl⟩
theorem rmem (a b : Word) : Statement (.rmem a b) := ⟨rfl, Nat.le_of_ble_eq_true rfl, Nat.le_of_ble_eq_true rfl, Or.inr rfl⟩
theorem wmem (a b : Word) : Statement (.wmem a b) := ⟨rfl, Nat.le_of_ble_eq_true rfl, Nat.le_of_ble_eq_true rfl, Or.inl rfl⟩
theorem call (a : Word) : Statement (.call a) := ⟨rfl, Nat.le_of_ble_eq_true rfl, Nat.le_of_ble_eq_true rfl, Or.inl rfl⟩
theorem ret : Statement .ret := ⟨rfl, by decide, by decide, Or.inl rfl⟩
theorem out (a : Word) : Statement (.out a) := ⟨rfl, Nat.le_of_ble_eq_true rfl, Nat.le_of_ble_eq_true rfl, Or.inl rfl⟩
theorem in_ (a : Word) : Statement (.in_ a) := ⟨rfl, Nat.le_of_ble_eq_true rfl, Nat.le_of_ble_eq_true rfl, Or.inr rfl⟩
theorem noop : Statement .noop := ⟨rfl, by decide, by decide, Or.inl rfl⟩

end Sys2Proof.Laws.EncodingShape
end

