-- ==== Sys2Proof/Laws/Step.lean ====
section
/-! SUPPORT. What one step attempt can do, said once in the order of R151 (`Attempt`), and that an instruction decoded
at an address lies inside memory (R74, R189). -/

namespace Sys2Proof

/-- A decoded instruction takes as many words as its width. -/
theorem length_of_decodeWords {ws rest : List Word} {i : Instr} (h : decodeWords ws = .instr i rest) :
    i.width + rest.length = ws.length := by
  cases ws with
  | nil => simp [decodeWords] at h
  | cons op ws =>
    have step0 {j : Instr} (hj : j.operands = []) (h : Decoded.instr j ws = .instr i rest) :
        i.width + rest.length = (op :: ws).length := by
      cases h; simp [Instr.width, hj, Nat.add_comm]
    simp only [decodeWords, decodeOp] at h
    split at h <;>
      first
        | exact step0 rfl h
        | (obtain ⟨a, rfl, rfl⟩ := decodeOperands1_eq_instr.mp h
           simp [Instr.width, Instr.operands]; omega)
        | (obtain ⟨a, b, rfl, rfl⟩ := decodeOperands2_eq_instr.mp h
           simp [Instr.width, Instr.operands]; omega)
        | (obtain ⟨a, b, c, rfl, rfl⟩ := decodeOperands3_eq_instr.mp h
           simp [Instr.width, Instr.operands]; omega)
        | cases h

namespace Machine

/-- An instruction decoded at an address lies wholly below `MEM_SIZE`. -/
theorem State.decodeAt_fits {s : State} {addr : Nat} {i : Instr} (h : s.decodeAt addr = .instr i) :
    addr + i.width ≤ s.memSize := by
  obtain ⟨rest, h⟩ := State.decodeAt_eq_instr.mp h
  have h1 := length_of_decodeWords h
  have h2 := s.length_wordsAt addr
  have h3 : 1 ≤ i.width := Nat.le_add_right 1 _
  omega

/-! State.started (R151 line 4): it writes `STATE` and nothing else. -/

@[simp] theorem State.started_execState (s : State) : s.started.execState = .running := rfl
@[simp] theorem State.started_memSize (s : State) : s.started.memSize = s.memSize := rfl
@[simp] theorem State.started_stackCap (s : State) : s.started.stackCap = s.stackCap := rfl
@[simp] theorem State.started_mem (s : State) : s.started.mem = s.mem := rfl
@[simp] theorem State.started_blueprint (s : State) : s.started.blueprint = s.blueprint := rfl
@[simp] theorem State.started_regs (s : State) : s.started.regs = s.regs := rfl
@[simp] theorem State.started_pc (s : State) : s.started.pc = s.pc := rfl
@[simp] theorem State.started_stack (s : State) : s.started.stack = s.stack := rfl
@[simp] theorem State.started_haltCause (s : State) : s.started.haltCause = s.haltCause := rfl
@[simp] theorem State.started_faultCause (s : State) : s.started.faultCause = s.faultCause := rfl
@[simp] theorem State.started_stop (s : State) : s.started.stop = s.stop := rfl
@[simp] theorem State.started_pause (s : State) : s.started.pause = s.pause := rfl
@[simp] theorem State.started_pauseCause (s : State) : s.started.pauseCause = s.pauseCause := rfl
@[simp] theorem State.started_bp (s : State) : s.started.bp = s.bp := rfl
@[simp] theorem State.started_bpSkip (s : State) : s.started.bpSkip = s.bpSkip := rfl
@[simp] theorem State.started_inq (s : State) : s.started.inq = s.inq := rfl
@[simp] theorem State.started_diag (s : State) : s.started.diag = s.diag := rfl
@[simp] theorem State.started_output (s : State) : s.started.output = s.output := rfl

/-- The attempt from `s` reaches line 6 of R151: it is not terminal, no request is raised, and no breakpoint fires. -/
structure State.Ready (s : State) : Prop where
  not_terminal : s.execState.terminal = false
  not_stop : s.stop = false
  not_pause : s.pause = false
  no_breakpoint : ¬(s.pc ∈ s.bp ∧ s.bpSkip = false)

/-- Everything a step attempt from `s` that answers a next state can have done (R151). -/
inductive Attempt (s : State) : State → Prop
  | terminal (h : s.execState.terminal = true) : Attempt s s
  | stopped (ht : s.execState.terminal = false) (h : s.stop = true) : Attempt s { s with execState := .stopped }
  | paused (ht : s.execState.terminal = false) (hs : s.stop = false) (h : s.pause = true) :
      Attempt s { s with execState := .paused }
  | breakpoint (ht : s.execState.terminal = false) (hs : s.stop = false) (hp : s.pause = false) (h : s.pc ∈ s.bp)
      (hk : s.bpSkip = false) : Attempt s s.started.breakpointHit
  | endOfMemory (ready : s.Ready) (h : s.pc = s.memSize) : Attempt s (s.started.halt .endOfMemory)
  | decodeFault (ready : s.Ready) (cause : FaultCause) (h : s.decodeAt s.pc = .fault cause) :
      Attempt s (s.started.raise cause)
  | executed (ready : s.Ready) (i : Instr) (t : State) (h : s.decodeAt s.pc = .instr i) (he : exec i s.started = .next t)
      (ending : Ending i s.started t) : Attempt s t

theorem breakpointFires_iff {s : State} : s.breakpointFires = true ↔ s.pc ∈ s.bp ∧ s.bpSkip = false := by
  unfold State.breakpointFires
  simp

/-- An attempt that reaches line 6 is the fetch and execution of the running state. -/
theorem step_of_ready {s : State} (h : s.Ready) : step s = fetchAndExecute s.started := by
  have hb : s.started.breakpointFires = false := by
    rw [← Bool.not_eq_true, breakpointFires_iff]; exact h.no_breakpoint
  unfold step stepAttempt
  rw [if_neg (by simp [h.not_terminal]), if_neg (by simp [h.not_stop]), if_neg (by simp [h.not_pause]), if_neg (by simp [hb])]

/-- Decoding ignores the execution state. -/
theorem decodeAt_started (s : State) (addr : Nat) : s.started.decodeAt addr = s.decodeAt addr :=
  State.decodeAt_congr rfl rfl addr

/-- An attempt that reaches an instruction is its execution in the running state. -/
theorem fetchAndExecute_instr {s : State} {i : Instr} (h : s.decodeAt s.pc = .instr i) :
    fetchAndExecute s = exec i s := by
  have hlt : ¬s.memSize ≤ s.pc := fun hge => by rw [State.decodeAt_eq_noCell.mpr hge] at h; cases h
  unfold fetchAndExecute
  rw [if_neg (by omega), h]

theorem fetchAndExecute_fault {s : State} {cause : FaultCause} (h : s.decodeAt s.pc = .fault cause) :
    fetchAndExecute s = .next (s.raise cause) := by
  have hlt : ¬s.memSize ≤ s.pc := fun hge => by rw [State.decodeAt_eq_noCell.mpr hge] at h; cases h
  unfold fetchAndExecute
  rw [if_neg (by omega), h]

theorem fetchAndExecute_end {s : State} (h : s.pc = s.memSize) :
    fetchAndExecute s = .next (s.halt .endOfMemory) := if_pos h

/-- The inversion of `step`: a next state it answers is one of the attempts of R151. -/
theorem step_cases {s t : State} (h : step s = .next t) : Attempt s t := by
  by_cases hT : s.execState.terminal = true
  · unfold step stepAttempt at h
    rw [if_pos hT] at h
    cases h; exact .terminal hT
  have hT' : s.execState.terminal = false := by simpa using hT
  by_cases hS : s.stop = true
  · unfold step stepAttempt at h
    rw [if_neg hT, if_pos hS] at h
    cases h; exact .stopped hT' hS
  have hS' : s.stop = false := by simpa using hS
  by_cases hP : s.pause = true
  · unfold step stepAttempt at h
    rw [if_neg hT, if_neg hS, if_pos hP] at h
    cases h; exact .paused hT' hS' hP
  have hP' : s.pause = false := by simpa using hP
  by_cases hB : s.pc ∈ s.bp ∧ s.bpSkip = false
  · have hb : s.started.breakpointFires = true := breakpointFires_iff.mpr hB
    unfold step stepAttempt at h
    rw [if_neg hT, if_neg hS, if_neg hP, if_pos hb] at h
    cases h; exact .breakpoint hT' hS' hP' hB.1 hB.2
  have ready : s.Ready := ⟨hT', hS', hP', hB⟩
  rw [step_of_ready ready] at h
  by_cases hE : s.pc = s.memSize
  · rw [fetchAndExecute_end (s := s.started) hE] at h
    cases h; exact .endOfMemory ready hE
  cases hd : s.decodeAt s.pc with
  | instr i =>
    rw [fetchAndExecute_instr (s := s.started) ((decodeAt_started s s.pc).trans hd)] at h
    exact .executed ready i t hd h (exec_cases h)
  | fault cause =>
    rw [fetchAndExecute_fault (s := s.started) ((decodeAt_started s s.pc).trans hd)] at h
    cases h; exact .decodeFault ready cause hd
  | noCell =>
    have hge := State.decodeAt_eq_noCell.mp hd
    unfold fetchAndExecute at h
    rw [if_neg (show ¬s.started.pc = s.started.memSize from hE), show s.started.decodeAt s.started.pc = .noCell from
      (decodeAt_started s s.pc).trans hd] at h
    cases h

/-- The outcome of an attempt that reaches an instruction is the instruction's (R15). -/
theorem attemptOutcome_executed {s t : State} {i : Instr} (ready : s.Ready) (hd : s.decodeAt s.pc = .instr i)
    (he : exec i s.started = .next t) : attemptOutcome s = some (instrOutcome i s.started t) := by
  have hlt : ¬s.memSize ≤ s.pc := fun hge => by rw [State.decodeAt_eq_noCell.mpr hge] at hd; cases hd
  have hb : s.started.breakpointFires = false := by
    rw [← Bool.not_eq_true, breakpointFires_iff]; exact ready.no_breakpoint
  unfold attemptOutcome
  rw [if_neg (by simp [ready.not_terminal]), if_neg (by simp [ready.not_stop]), if_neg (by simp [ready.not_pause]),
    if_neg (by simp [hb]), if_neg (by omega), hd]
  simp only [he]

/-- Only an attempt that reaches line 6 of R151 completes. -/
theorem ready_of_completed {s : State} (h : attemptOutcome s = some .completed) : s.Ready := by
  unfold attemptOutcome at h
  split_ifs at h with hT hS hP hB hE <;> first
    | cases h
    | exact ⟨by simpa using hT, by simpa using hS, by simpa using hP, fun hk => hB (breakpointFires_iff.mpr hk)⟩

/-- Only a completed IN at the pc takes a byte. -/
theorem byteTaken_eq_nil {s : State} (h : ∀ a, s.decodeAt s.pc ≠ .instr (.in_ a)) : s.byteTaken = [] := by
  unfold State.byteTaken
  split
  · rename_i a hd; exact absurd hd (h a)
  all_goals rfl

/-- What an IN at the pc takes. -/
theorem byteTaken_in {s : State} {a : Word} (h : s.decodeAt s.pc = .instr (.in_ a)) :
    s.byteTaken = if attemptOutcome s = some .completed then s.inq.take 1 else [] := by
  unfold State.byteTaken
  rw [h]

end Machine

end Sys2Proof
end

