-- ==== Sys2Proof/Tests/Slice0.lean ====
section
/-! SUPPORT. Small tests on fixed values: the WellFormed smoke tests, every constructor's words written out from the
opcode map R75, and the spec's own vectors of spec/95_test_vectors.md (named V1 to V9, S1 to S5, T1 to T9), one step or one
function each. -/

namespace Sys2Proof.Tests

open Sys2Proof.Machine

/-- The state a step is tested in: `words` from address 0, `MEM_SIZE` their number, everything else as after reset. -/
def image (words : List Word) : State :=
  { State.reset with memSize := words.length, mem := Memory.ofWords 0 words }

/-- The next state, where there is one. -/
def next : Host.Outcome State Fault Refusal → Option State
  | .next s => some s
  | .fault _ => none
  | .refused _ => none

/-- What a test looks at: pc, `STATE`, `x[0]` and the stack. -/
def view (s : State) : Nat × ExecState × Word × List Word := (s.pc, s.execState, s.regs[0], s.stack)

/-- The view after one step. -/
def run1 (s : State) : Option (Nat × ExecState × Word × List Word) := (next (step s)).map view

/-! ## Well-formedness: an ill-formed term for each check (R72, R73) -/

theorem test_wf_accepts : Instr.wf (.add 32768 32775 32767) = true := by decide
theorem test_wf_refuses_literal_destination : Instr.wf (.set 5 7) = false := by decide
theorem test_wf_refuses_malformed_destination : Instr.wf (.pop 32776) = false := by decide
theorem test_wf_refuses_malformed_source_a : Instr.wf (.jmp 32776) = false := by decide
theorem test_wf_refuses_malformed_source_b : Instr.wf (.wmem 9 65535) = false := by decide
theorem test_wf_refuses_malformed_source_c : Instr.wf (.mod 32768 7 40000) = false := by decide
theorem test_wf_refuses_in_to_literal : Instr.wf (.in_ 0) = false := by decide

/-! ## Decoding: every constructor from its words (R70, R75), and the rejections (V6) -/

theorem test_decode_f0 :
    decodeWords [0] = .instr .halt [] ∧ decodeWords [18] = .instr .ret [] ∧ decodeWords [21] = .instr .noop [] := by
  decide

theorem test_decode_f1 :
    decodeWords [2, 72] = .instr (.push 72) [] ∧ decodeWords [3, 32768] = .instr (.pop 32768) [] ∧
    decodeWords [6, 0] = .instr (.jmp 0) [] ∧ decodeWords [17, 6] = .instr (.call 6) [] ∧
    decodeWords [19, 65] = .instr (.out 65) [] ∧ decodeWords [20, 32769] = .instr (.in_ 32769) [] := by decide

theorem test_decode_f2 :
    decodeWords [1, 32768, 65] = .instr (.set 32768 65) [] ∧ decodeWords [7, 32768, 6] = .instr (.jt 32768 6) [] ∧
    decodeWords [8, 32769, 20] = .instr (.jf 32769 20) [] ∧ decodeWords [14, 32768, 0] = .instr (.not 32768 0) [] ∧
    decodeWords [15, 32770, 100] = .instr (.rmem 32770 100) [] ∧
    decodeWords [16, 100, 32769] = .instr (.wmem 100 32769) [] := by decide

theorem test_decode_f3 :
    decodeWords [4, 32769, 32768, 10] = .instr (.eq 32769 32768 10) [] ∧
    decodeWords [5, 32768, 5, 3] = .instr (.gt 32768 5 3) [] ∧
    decodeWords [9, 32768, 32769, 4] = .instr (.add 32768 32769 4) [] ∧
    decodeWords [10, 32768, 300, 301] = .instr (.mult 32768 300 301) [] ∧
    decodeWords [11, 32768, 7, 3] = .instr (.mod 32768 7 3) [] ∧
    decodeWords [12, 32768, 12, 10] = .instr (.and 32768 12 10) [] ∧
    decodeWords [13, 32768, 12, 10] = .instr (.or 32768 12 10) [] := by decide

/-- V6 and R78: 22, 256, 32768 and 65535 are no opcodes. -/
theorem test_decode_rejects_unknown :
    decodeWords [22] = .error (.unknownOpcode 22) ∧ decodeWords [256] = .error (.unknownOpcode 256) ∧
    decodeWords [32768] = .error (.unknownOpcode 32768) ∧ decodeWords [65535] = .error (.unknownOpcode 65535) := by
  decide

theorem test_decode_rejects_cut_off :
    decodeWords [] = .error .noWord ∧ decodeWords [19] = .error (.operandsMissing 1) ∧
    decodeWords [1, 32768] = .error (.operandsMissing 2) ∧ decodeWords [9, 1, 2] = .error (.operandsMissing 3) := by
  decide

/-- The table's word of `SET 32768, 65`: bits 15:0 the opcode, 31:16 operand `a`, 47:32 operand `b`. -/
theorem test_decode_table_word :
    decodeTableWord 48 (1 + 32768 * 2 ^ 16 + 65 * 2 ^ 32) = some (.set 32768 65) ∧
    decodeTableWord 16 9 = some (.add 0 0 0) ∧ decodeTableWord 16 22 = none := by decide

/-- P1's image bytes: `01 00 00 80 41 00`. -/
theorem test_words_of_bytes :
    wordsOfBytes [0x01, 0x00, 0x00, 0x80, 0x41, 0x00] = some [1, 32768, 65] ∧ wordsOfBytes [0x13, 0x00, 0x41] = none := by
  decide

theorem test_fetch_word_after_reset : run1 (State.reset.withFetchWord 48 (1 + 32768 * 2 ^ 16 + 65 * 2 ^ 32)) =
    some (3, .running, 65, []) := by decide

/-! ## Operand resolution (V1) -/

/-- V1's state: `x[0] = 7`, `x[1] = 32769`, `x[7] = 40000`. -/
def v1 : State := { image [0] with regs := #v[7, 32769, 0, 0, 0, 0, 0, 40000] }

theorem test_rd : [0, 255, 32767, 32768, 32769, 32775, 32776, 40000, 65535].map (rd v1) =
    [some 0, some 255, some 32767, some 7, some 32769, some 40000, none, none, none] := by decide

theorem test_dst : [0, 255, 32767, 32768, 32769, 32775, 32776, 40000, 65535].map dst =
    [none, none, none, some 0, some 1, some 7, none, none, none] := by decide

/-! ## Data movement (V2) -/

theorem test_set : run1 (image [1, 32768, 65]) = some (3, .running, 65, []) := by decide
theorem test_set_malformed_source : (next (step (image [1, 32768, 65535]))).map (fun s => (s.pc, s.faultCause)) =
    some (0, some (.malformedOperand 65535)) := by decide
theorem test_push : run1 (image [2, 72]) = some (2, .running, 0, [72]) := by decide
theorem test_push_full : (next (step { image [2, 2] with stackCap := some 1, stack := [1] })).map
    (fun s => (s.pc, s.stack, s.faultCause)) = some (0, [1], some (.stackOverflow 1)) := by decide
theorem test_pop : run1 { image [3, 32768] with stack := [2, 72] } = some (2, .running, 72, [2]) := by decide
theorem test_pop_empty : (next (step (image [3, 32768]))).map (fun s => (s.pc, s.faultCause)) =
    some (0, some .stackUnderflow) := by decide
theorem test_rmem_own_operand : run1 (image [15, 32768, 1]) = some (3, .running, 32768, []) := by decide
theorem test_rmem_out_of_range : (next (step (image [15, 32768, 50]))).map (fun s => s.faultCause) =
    some (some (.memoryAddressOutOfRange 50)) := by decide
theorem test_wmem : (next (step (image [16, 3, 21, 0]))).map (fun s => (s.pc, s.mem)) =
    some (3, [(0, 16), (1, 3), (2, 21), (3, 21)]) := by decide
theorem test_wmem_tests_a_first : (next (step (image [16, 32776, 65535]))).map (fun s => s.faultCause) =
    some (some (.malformedOperand 32776)) := by decide

/-! ## Arithmetic and logic (V3) -/

/-- `OP R0, R1, R2` on resolved values `vb`, `vc`. -/
def alu (op vb vc : Word) : Option Word :=
  (next (step { image [op, 32768, 32769, 32770] with regs := #v[0, vb, vc, 0, 0, 0, 0, 0] })).map fun s => s.regs[0]

theorem test_eq : [alu 4 10 10, alu 4 97 10, alu 4 32768 0, alu 4 65535 65535] = [some 1, some 0, some 0, some 1] := by
  decide
theorem test_gt : [alu 5 5 3, alu 5 3 5, alu 5 3 3, alu 5 65535 32767] = [some 1, some 0, some 0, some 1] := by decide
theorem test_add : [alu 9 32767 1, alu 9 5 32767, alu 9 40000 1, alu 9 65535 65535] =
    [some 0, some 4, some 7233, some 32766] := by decide
theorem test_mult : [alu 10 182 182, alu 10 256 128, alu 10 32767 32767, alu 10 65535 65535] =
    [some 356, some 0, some 1, some 1] := by decide
theorem test_mod : [alu 11 7 3, alu 11 3 7, alu 11 65535 40000, alu 11 40000 65535] =
    [some 1, some 3, some 25535, some 7232] := by decide
theorem test_mod_by_zero : (next (step (image [11, 32768, 5, 0]))).map (fun s => (s.pc, s.faultCause)) =
    some (0, some (.moduloByZero 5)) := by decide
theorem test_and : [alu 12 12 10, alu 12 21845 10922, alu 12 32768 32768, alu 12 65535 65535] =
    [some 8, some 0, some 0, some 32767] := by decide
theorem test_or : [alu 13 12 10, alu 13 21845 10922, alu 13 32768 1, alu 13 65535 0] =
    [some 14, some 32767, some 1, some 32767] := by decide
theorem test_not : [0, 1, 21845, 32767, 32768, 65535].map
    (fun v => (next (step { image [14, 32768, 32769] with regs := #v[9, v, 0, 0, 0, 0, 0, 0] })).map fun s => s.regs[0]) =
    [some 32767, some 32766, some 10922, some 0, some 32767, some 0] := by decide
theorem test_add_same_register : run1 { image [9, 32768, 32768, 32768] with regs := #v[5, 0, 0, 0, 0, 0, 0, 0] } =
    some (4, .running, 10, []) := by decide
theorem test_invalid_destination_hides_zero_divisor : (next (step (image [11, 3, 5, 0]))).map
    (fun s => (s.pc, s.execState, s.faultCause, s.diag.map fun d => d.kind)) =
    some (4, .running, none, [.operandAddressError 3]) := by decide

/-! ## Control transfer (V4) -/

theorem test_jmp_register : run1 { image [6, 32768, 0] with regs := #v[2, 0, 0, 0, 0, 0, 0, 0] } =
    some (2, .running, 2, []) := by decide
theorem test_jmp_to_memory_size : (next (step (image [6, 2]))).map (fun s => (s.pc, s.faultCause)) =
    some (0, some (.pcOutOfRange 2)) := by decide
theorem test_jt_tests_sixteen_bits : run1 { image [7, 32768, 5, 0, 0, 0] with regs := #v[32768, 0, 0, 0, 0, 0, 0, 0] } =
    some (5, .running, 32768, []) := by decide
theorem test_jt_not_taken : run1 (image [7, 0, 999]) = some (3, .running, 0, []) ∧
    (next (step (image [7, 0, 40000]))).map (fun s => s.faultCause) = some (some (.malformedOperand 40000)) := by decide
theorem test_jf_taken : run1 (image [8, 32768, 5, 0, 0, 0]) = some (5, .running, 0, []) := by decide
theorem test_jf_not_taken : run1 { image [8, 32768, 5, 0, 0, 0] with regs := #v[1, 0, 0, 0, 0, 0, 0, 0] } =
    some (3, .running, 1, []) := by decide
theorem test_call : run1 (image [17, 6, 0, 0, 0, 0, 0]) = some (6, .running, 0, [2]) := by decide
theorem test_call_bad_target_pushes_nothing : run1 (image [17, 9]) = some (0, .faulted, 0, []) := by decide
theorem test_call_return_address_overflow :
    (next (exec (.call 0) { State.reset with pc := 65534 })).map (fun s => (s.pc, s.faultCause)) =
    some (65534, some (.returnAddressOverflow 65536)) := by decide
theorem test_ret : run1 { image [18, 0, 0] with stack := [7, 2] } = some (2, .running, 0, [7]) := by decide
theorem test_ret_does_not_resolve : run1 { image [18, 0, 0] with stack := [32768] } =
    some (0, .faulted, 0, [32768]) := by decide

/-! ## System and input/output (V5) -/

theorem test_halt : (next (step (image [0]))).map (fun s => (view s, s.haltCause, s.diag)) =
    some ((0, .halted, 0, []), some .haltInstruction, []) := by decide
theorem test_ret_empty : (next (step (image [18]))).map (fun s => (view s, s.haltCause)) =
    some ((0, .halted, 0, []), some .retEmptyStack) := by decide
theorem test_noop : run1 (image [21]) = some (1, .running, 0, []) := by decide
theorem test_end_of_memory : (next (step { image [21] with pc := 1 })).map (fun s => (view s, s.haltCause)) =
    some ((1, .halted, 0, []), some .endOfMemory) := by decide
theorem test_out : (next (step (image [19, 255]))).map (fun s => (s.pc, s.output)) = some (2, [255]) := by decide
theorem test_out_256 : (next (step (image [19, 256]))).map (fun s => (s.pc, s.output, s.faultCause, s.diag.length)) =
    some (0, [], some (.ioValueError 256), 1) := by decide
theorem test_in : (next (step { image [20, 32768] with inq := [255, 1] })).map (fun s => (view s, s.inq)) =
    some ((2, .running, 255, []), [1]) := by decide
theorem test_in_stalls : next (step { image [20, 32768] with execState := .running }) =
    some { image [20, 32768] with execState := .running } := by decide

/-! ## Decode faults, breakpoints, requests (V6, S5, T1 to T9), one step each -/

theorem test_operand_fetch_out_of_range : (next (step { image [21, 1, 32768] with pc := 1 })).map
    (fun s => (s.pc, s.faultCause)) = some (1, some (.operandFetchOutOfRange 3)) := by decide

/-- T9: the breakpoint on an undecodable cell is reported as "undecodable" and suspends before any fault. -/
theorem test_breakpoint_on_undecodable :
    (next (step { image [22] with bp := [0] })).map (fun s => (s.execState, s.faultCause)) = some (.paused, none) ∧
    (next (step { image [22] with bp := [0] })).map (fun s => s.diag.map fun d => (d.word, d.instruction)) =
      some [(some 22, none)] := by decide

/-- S5, attempt 6: the record holds `SET 32768 7` at pc 5 and the instruction has not executed. -/
theorem test_breakpoint_record : (next (step { image [21, 21, 21, 21, 21, 1, 32768, 7, 0] with pc := 5, bp := [5] })).map
    (fun s => (s.regs[0], s.diag.map fun d => (d.pc, d.word, d.instruction))) =
    some (0, [(5, some 1, some (.set 32768 7))]) := by decide

/-- S5, attempt 8: after the release the instruction at the breakpoint executes. -/
theorem test_breakpoint_released : run1 { image [1, 32768, 7] with bp := [0], bpSkip := true, execState := .paused } =
    some (3, .running, 7, []) := by decide

/-- T3: stop beats pause and breakpoint. -/
theorem test_stop_wins : (next (step (hostStop (hostPause { image [21, 0] with bp := [0] })))).map
    (fun s => (s.execState, s.diag, s.pc)) = some (.stopped, [], 0) := by decide

/-- T1: `is_stopped()` is true from the `stop()` on. -/
theorem test_is_stopped : hostIsStopped (image [0]) = false ∧ hostIsStopped (hostStop (image [0])) = true := by decide

/-- T7: the record outlives `reset()`, the cause does not. -/
theorem test_reset_after_fault : (next (step (image [3, 32768]))).map
    (fun s => ((hostReset s).execState, (hostReset s).faultCause, (hostReset s).diag.length)) =
    some (.idle, none, 1) := by decide

/-- R180: the code of `PcOutOfRange` and of a non-fatal `OperandAddressError`. -/
theorem test_codes : causeCode (.pcOutOfRange 9) = 6 ∧ diagCode (.operandAddressError 5) = some 4 := by decide

/-- R15: a no-op by invalid destination, a stall and a completion are told apart. -/
theorem test_outcomes : attemptOutcome (image [20, 0]) = some .noOp ∧
    attemptOutcome (image [20, 32768]) = some .stalled ∧ attemptOutcome (image [6, 0]) = some .completed := by decide

/-! ## Construction (V8) and listing (V9) -/

theorem test_new_pads_and_truncates :
    (next (hostNew [0x13, 0x00, 0x41, 0x00] 4 none)).map (fun s => Memory.snapshot s.memSize s.blueprint) =
      some [19, 65, 0, 0] ∧
    (next (hostNew [0x13, 0x00, 0x41, 0x00, 0x00, 0x00] 2 none)).map (fun s => Memory.snapshot s.memSize s.mem) =
      some [19, 65] := by decide

theorem test_listing : (disassemble [1, 32768, 65, 19, 32768, 19, 10, 0, 40000]).map ListingRecord.render =
    ["0 SET R0 65", "3 OUT R0", "5 OUT \\n", "7 HALT", "8 DATA 40000"] := by decide

theorem test_listing_cut_off : (disassemble [19, 10, 22, 1, 32768]).map ListingRecord.render =
    ["0 OUT \\n", "2 DATA 22", "3 DATA 1", "4 DATA 32768"] := by decide

end Sys2Proof.Tests
end

