-- ==== Sys2Proof/Tests/Witnesses.lean ====
section
/-! SUPPORT. For every statement of Certificates/Slice0/Obligations.lean that has hypotheses, concrete states and operands
that meet them, one conjunct for each clause and at the ends of its range: `witness_<statement>`. -/

namespace Sys2Proof.Tests

open Sys2Proof.Machine

/-- A running engine on an image. -/
def running (words : List Word) : State := { image words with execState := .running }

/-- An engine whose finite stack of one entry is full (`STACK_CAP = 1`). -/
def full (words : List Word) : State := { running words with stackCap := some 1, stack := [7] }

/-- The largest memory, at a pc. -/
def large (pc : Nat) : State := { State.reset with execState := .running, pc := pc }

/-! ## Encoding, operands, memory -/

theorem witness_DecodeAndEncodeAgree :
    decodeWords [1, 32775, 65535, 7] = .instr (.set 32775 65535) [7] ∧
    ([0, 22] : List Word) = encode .halt ++ [22] := by decide

theorem witness_DecodeAtReadsOpcodeThenOperands :
    ((image [22]).memRead 0 = some 22 ∧ 21 < (22 : Word).toNat) ∧
    ((image [21, 1, 32768]).memRead 1 = some 1 ∧ (Instr.set 32768 0).opcode = 1 ∧
      (image [21, 1, 32768]).memSize - 1 < 1 + (Instr.set 32768 0).operands.length) ∧
    ((image [1, 32768, 65]).memRead 0 = some 1 ∧ (Instr.set 32768 65).opcode = 1 ∧
      ∀ k, k < (Instr.set 32768 65).operands.length →
        (image [1, 32768, 65]).memRead (0 + 1 + k) = (Instr.set 32768 65).operands[k]?) := by decide

theorem witness_UnknownOpcodeFaults :
    21 < (22 : Word).toNat ∧ 21 < (65535 : Word).toNat ∧
    ((image [22]).execState.terminal = false ∧ (image [22]).stop = false ∧ (image [22]).pause = false ∧
      ¬((image [22]).pc ∈ (image [22]).bp ∧ (image [22]).bpSkip = false) ∧
      (image [22]).memRead (image [22]).pc = some 22) := by decide

theorem witness_SourceResolvesByItsClass :
    (0 : Word).toNat ≤ 32767 ∧ (32767 : Word).toNat ≤ 32767 ∧
    (32768 : Word).toNat = 32768 + (0 : Fin 8).val ∧ (32775 : Word).toNat = 32768 + (7 : Fin 8).val ∧
    32776 ≤ (32776 : Word).toNat ∧ 32776 ≤ (65535 : Word).toNat := by decide

theorem witness_DestinationResolvesByItsClass :
    (0 : Word).toNat ≤ 32767 ∧ (32767 : Word).toNat ≤ 32767 ∧
    (32768 : Word).toNat = 32768 + (0 : Fin 8).val ∧ (32775 : Word).toNat = 32768 + (7 : Fin 8).val ∧
    32776 ≤ (32776 : Word).toNat ∧ 32776 ≤ (65535 : Word).toNat := by decide

theorem witness_WellFormedInstructionsResolveTheirOperands :
    (Instr.add 32768 32775 32767).wf = true ∧ (running [9, 32768, 32775, 32767]).faultCause = none ∧
    ∃ t, exec (.add 32768 32775 32767) (running [9, 32768, 32775, 32767]) = .next t :=
  ⟨by decide, by decide, _, rfl⟩

theorem witness_MemoryWriteChangesOneCell :
    (image [5, 6]).mem.wf = true ∧ 1 < (image [5, 6]).memSize ∧ (image [5, 6]).memSize ≤ 2 := by decide

theorem witness_MemoriesThatReadAlikeAreEqual :
    Memory.wf [(3, 9), (65535, 1)] = true ∧
    ∀ addr, Memory.read [(3, 9), (65535, 1)] addr = Memory.read [(3, 9), (65535, 1)] addr :=
  ⟨by decide, fun _ => rfl⟩

/-! ## Data movement -/

theorem witness_SetCopiesSourceToRegister :
    (dst 32767 = none ∧ dst 32776 = none) ∧ (dst 32768 = some 0 ∧ rd v1 65535 = none) ∧
    (dst 32775 = some 7 ∧ rd v1 32775 = some 40000) := by decide

theorem witness_PushAppendsToStack :
    rd (full [2, 32776]) 32776 = none ∧
    (rd (full [2, 2]) 2 = some 2 ∧ (full [2, 2]).stackCap = some (full [2, 2]).stack.length) ∧
    (rd (running [2, 32767]) 32767 = some 32767 ∧
      (running [2, 32767]).stackCap ≠ some (running [2, 32767]).stack.length) := by decide

theorem witness_PopMovesTopToRegister :
    (dst 32767 = none ∧ dst 32776 = none) ∧ (dst 32768 = some 0 ∧ (running [3, 32768]).stack = []) ∧
    (dst 32775 = some 7 ∧ (full [3, 32775]).stack = [] ++ [7]) := by decide

theorem witness_MemoryInstructionsMoveOneWord :
    (dst 32767 = none ∧ (dst 32768 = some 0 ∧ rd v1 32776 = none) ∧
      (dst 32768 = some 0 ∧ rd (image [5, 6]) 2 = some 2 ∧ (image [5, 6]).memSize ≤ (2 : Word).toNat) ∧
      (dst 32775 = some 7 ∧ rd (image [5, 6]) 1 = some 1 ∧ (image [5, 6]).memRead (1 : Word).toNat = some 6)) ∧
    (rd v1 32776 = none ∧ (rd v1 32767 = some 32767 ∧ rd v1 65535 = none) ∧
      (rd (image [5, 6]) 2 = some 2 ∧ rd (image [5, 6]) 9 = some 9 ∧ (image [5, 6]).memSize ≤ (2 : Word).toNat) ∧
      (rd (image [5, 6]) 1 = some 1 ∧ rd (image [5, 6]) 9 = some 9 ∧ (1 : Word).toNat < (image [5, 6]).memSize ∧
        (image [5, 6]).mem.wf = true)) := by decide

/-! ## Comparison, arithmetic, logic: the same clauses for every three-operand form -/

/-- The clauses of a three-operand form: an invalid destination, a malformed `b`, a malformed `c`, and none of these. -/
def AluClauses : Prop :=
  dst 32767 = none ∧ (dst 32768 = some 0 ∧ rd v1 32776 = none) ∧
  (dst 32768 = some 0 ∧ rd v1 32767 = some 32767 ∧ rd v1 65535 = none) ∧
  (dst 32775 = some 7 ∧ rd v1 32768 = some 7 ∧ rd v1 32775 = some 40000)

theorem witness_EqWritesOneOrZero : AluClauses := by unfold AluClauses; decide
theorem witness_GtComparesUnsigned : AluClauses := by unfold AluClauses; decide
theorem witness_AddAndMultReduceExactResult : AluClauses := by unfold AluClauses; decide
theorem witness_AndAndOrKeepFifteenBits : AluClauses := by unfold AluClauses; decide

theorem witness_ModGivesReducedRemainder : AluClauses ∧
    (dst 32768 = some 0 ∧ rd v1 32775 = some 40000 ∧ rd v1 0 = some 0) ∧
    (dst 32775 = some 7 ∧ rd v1 0 = some 0 ∧ rd v1 1 = some 1 ∧ (1 : Word) ≠ 0) := by
  unfold AluClauses; decide

theorem witness_NotComplementsFifteenBits :
    dst 32776 = none ∧ (dst 32768 = some 0 ∧ rd v1 65535 = none) ∧
    (dst 32775 = some 7 ∧ rd v1 32775 = some 40000) := by decide

/-- ADD and EQ on registers holding 40000; the other forms alike. -/
theorem witness_ArithmeticResultsAreReduced :
    dst 32775 = some 7 ∧
    (∃ t, exec (.add 32775 32775 32775) v1 = .next t ∧ t.execState ≠ .faulted) ∧
    (∃ t, exec (.eq 32775 32775 32775) v1 = .next t ∧ t.execState ≠ .faulted) :=
  ⟨by decide, ⟨_, rfl, by decide⟩, ⟨_, rfl, by decide⟩⟩

/-! ## Control transfer -/

theorem witness_JmpGoesToAbsoluteTarget :
    rd (running [6, 1]) 32776 = none ∧
    (rd (running [6, 2]) 2 = some 2 ∧ (running [6, 2]).memSize ≤ (2 : Word).toNat) ∧
    (rd (running [6, 1]) 1 = some 1 ∧ (1 : Word).toNat < (running [6, 1]).memSize) := by decide

theorem witness_ConditionalJumpsTestTheirCondition :
    rd (running [7, 1, 2]) 65535 = none ∧
    (rd (running [7, 1, 2]) 1 = some 1 ∧ rd (running [7, 1, 2]) 32776 = none) ∧
    (rd (running [7, 1, 2]) 0 = some 0 ∧ rd (running [7, 1, 2]) 32767 = some 32767) ∧
    (rd (running [7, 1, 2]) 1 = some 1 ∧ (1 : Word) ≠ 0 ∧ rd (running [7, 1, 2]) 3 = some 3 ∧
      (running [7, 1, 2]).memSize ≤ (3 : Word).toNat) ∧
    (rd (running [7, 1, 2]) 1 = some 1 ∧ (1 : Word) ≠ 0 ∧ rd (running [7, 1, 2]) 2 = some 2 ∧
      (2 : Word).toNat < (running [7, 1, 2]).memSize) ∧
    (rd (running [8, 0, 3]) 0 = some 0 ∧ rd (running [8, 0, 3]) 3 = some 3 ∧
      (running [8, 0, 3]).memSize ≤ (3 : Word).toNat) ∧
    (rd (running [8, 0, 2]) 0 = some 0 ∧ rd (running [8, 0, 2]) 2 = some 2 ∧
      (2 : Word).toNat < (running [8, 0, 2]).memSize) := by decide

theorem witness_CallPushesReturnAddress :
    rd (running [17, 1]) 32776 = none ∧
    (rd (running [17, 2]) 2 = some 2 ∧ (running [17, 2]).memSize ≤ (2 : Word).toNat) ∧
    (rd (large 65534) 0 = some 0 ∧ (0 : Word).toNat < (large 65534).memSize ∧ 65535 < (large 65534).pc + 2) ∧
    (rd (full [17, 1]) 1 = some 1 ∧ (1 : Word).toNat < (full [17, 1]).memSize ∧ (full [17, 1]).pc + 2 ≤ 65535 ∧
      (full [17, 1]).stackCap = some (full [17, 1]).stack.length) ∧
    (rd (large 65533) 32767 = some 32767 ∧ (32767 : Word).toNat < (large 65533).memSize ∧
      (large 65533).pc + 2 ≤ 65535 ∧ (large 65533).stackCap ≠ some (large 65533).stack.length) := by decide

theorem witness_RetPopsThePc :
    (running [18]).stack = [] ∧
    (({ running [18] with stack := [3, 1] } : State).stack = [3] ++ [1] ∧
      (running [18]).memSize ≤ (1 : Word).toNat) ∧
    (({ running [18] with stack := [3, 0] } : State).stack = [3] ++ [0] ∧
      (0 : Word).toNat < (running [18]).memSize) := by decide

/-- CALL 0 at pc 0 of a three-word memory, and a RET that finds the stack it left. -/
theorem witness_RetReturnsPastItsCall :
    ∃ t, exec (.call 0) (running [17, 0, 18]) = .next t ∧ t.execState ≠ .faulted ∧
      (running [17, 0, 18]).pc + 2 < (running [17, 0, 18]).memSize ∧
      ({ running [17, 0, 18] with pc := 2, stack := [2] } : State).stack = t.stack ∧
      ({ running [17, 0, 18] with pc := 2, stack := [2] } : State).memSize = (running [17, 0, 18]).memSize :=
  ⟨_, rfl, by decide, by decide, by decide, by decide⟩

/-! ## System and input/output -/

theorem witness_OutEmitsOneByte :
    rd v1 32776 = none ∧ (rd v1 256 = some 256 ∧ 255 < (256 : Word).toNat) ∧
    (rd v1 255 = some 255 ∧ (255 : Word).toNat ≤ 255) := by decide

theorem witness_InConsumesOneByte :
    dst 32767 = none ∧ (dst 32768 = some 0 ∧ (running [20, 32768]).inq = []) ∧
    (dst 32775 = some 7 ∧ ({ running [20, 32775] with inq := [255, 1] } : State).inq = 255 :: [1]) := by decide

theorem witness_StalledInWaitsForTheHost :
    (running [20, 32775]).waitingForInput = true ∧ (running [20, 32775]).stop = false ∧
    (running [20, 32775]).pause = false ∧
    ¬((running [20, 32775]).pc ∈ (running [20, 32775]).bp ∧ (running [20, 32775]).bpSkip = false) := by decide

/-- The wait at a breakpoint that has fired. -/
theorem witness_StalledInWaitsForTheHost_atBreakpoint :
    ({ running [20, 32768] with bp := [0], bpSkip := true } : State).waitingForInput = true ∧
    ¬(({ running [20, 32768] with bp := [0], bpSkip := true } : State).pc ∈ [0] ∧
      ({ running [20, 32768] with bp := [0], bpSkip := true } : State).bpSkip = false) := by decide

/-! ## Faults and no-ops -/

theorem witness_InvalidDestinationIsReportedNoOp :
    ((Instr.mod 3 5 0).destination = some 3 ∧ dst 3 = none) ∧
    ((Instr.pop 65535).destination = some 65535 ∧ dst 65535 = none) := by decide

theorem witness_EndingInstructionsChangeNothingElse :
    (running [3, 32768]).execState = .running ∧
    (∃ t, exec (.pop 32768) (running [3, 32768]) = .next t ∧ t.execState = .faulted) ∧
    (∃ t, exec .ret (running [18]) = .next t ∧ t.execState = .halted) :=
  ⟨by decide, ⟨_, rfl, by decide⟩, ⟨_, rfl, by decide⟩⟩

theorem witness_FaultedEngineStaysUntilReset :
    ((running [22]).raise (.unknownOpcode 22)).execState = .faulted ∧
    Event.host .reset ∉ [Event.attempt, .host .stop, .host (.insertInput [65]), .attempt] := by decide

theorem witness_EveryAttemptAnswersNext :
    ({ running [21] with pc := 1 } : State).pc ≤ ({ running [21] with pc := 1 } : State).memSize := by decide

/-! ## The step attempt -/

theorem witness_StepRunsTheDecodedInstruction :
    (image [14, 32768, 0]).execState.terminal = false ∧ (image [14, 32768, 0]).stop = false ∧
    (image [14, 32768, 0]).pause = false ∧
    ¬((image [14, 32768, 0]).pc ∈ (image [14, 32768, 0]).bp ∧ (image [14, 32768, 0]).bpSkip = false) ∧
    (image [14, 32768, 0]).decodeAt (image [14, 32768, 0]).pc = .instr (.not 32768 0) := by decide

/-- The clauses in order: terminal; stop; pause; breakpoint; and neither, at the end of memory and at a cut-off word. -/
theorem witness_StepTestsInOrder :
    ({ image [0] with execState := .halted } : State).execState.terminal = true ∧
    ((hostStop (image [0])).execState.terminal = false ∧ (hostStop (image [0])).stop = true) ∧
    ((hostPause (image [0])).execState.terminal = false ∧ (hostPause (image [0])).stop = false ∧
      (hostPause (image [0])).pause = true) ∧
    ((hostAddBreakpoint 0 (image [0])).execState.terminal = false ∧ (hostAddBreakpoint 0 (image [0])).stop = false ∧
      (hostAddBreakpoint 0 (image [0])).pause = false ∧
      (hostAddBreakpoint 0 (image [0])).pc ∈ (hostAddBreakpoint 0 (image [0])).bp ∧
      (hostAddBreakpoint 0 (image [0])).bpSkip = false) ∧
    ((image [19]).execState.terminal = false ∧ (image [19]).stop = false ∧ (image [19]).pause = false ∧
      ¬((image [19]).pc ∈ (image [19]).bp ∧ (image [19]).bpSkip = false) ∧
      ({ image [19] with pc := 1 } : State).pc = ({ image [19] with pc := 1 } : State).memSize ∧
      (image [19]).decodeAt (image [19]).pc = .fault (.operandFetchOutOfRange 1)) := by decide

theorem witness_PlacedTableWordIsFetched :
    (large 65532).mem.wf = true ∧ (large 65532).pc + 3 < (large 65532).memSize ∧
    decodeTableWord 48 0x004180000001 = some (.set 32768 65) := by decide

theorem witness_BpskipClearedUnlessStalled :
    (∃ t, exec (.in_ 32768) (running [20, 32768]) = .next t) ∧
    (∃ t, exec .noop ({ running [21] with bp := [0], bpSkip := true } : State) = .next t) :=
  ⟨⟨_, rfl⟩, ⟨_, rfl⟩⟩

theorem witness_StatesChangeOnlyAsTheDiagramSays :
    ({ image [0] with execState := .stopped } : State).execState.terminal = true ∧
    (∃ t, step ({ image [0] with execState := .stopped } : State) = .next t) ∧
    ((hostStop (image [0])).execState.terminal = false ∧ (hostStop (image [0])).stop = true ∧
      ∃ t, step (hostStop (image [0])) = .next t) ∧
    ((hostPause (image [0])).stop = false ∧ (hostPause (image [0])).pause = true ∧
      ∃ t, step (hostPause (image [0])) = .next t) ∧
    ((image [0]).execState.terminal = false ∧ (image [0]).stop = false ∧ (image [0]).pause = false ∧
      ∃ t, step (image [0]) = .next t) ∧
    (∃ t, hostNew [0x15, 0x00] 1 none = .next t) :=
  ⟨by decide, ⟨_, rfl⟩, ⟨by decide, by decide, _, rfl⟩, ⟨by decide, by decide, _, rfl⟩,
    ⟨by decide, by decide, by decide, _, rfl⟩, ⟨_, rfl⟩⟩

/-! ## Whole-machine frames -/

theorem witness_ProgramCannotTouchHostState :
    ∃ t, exec (.set 5 7) ({ running [1, 5, 7] with bp := [0], bpSkip := true } : State) = .next t := ⟨_, rfl⟩

theorem witness_InstructionsChangeOnlyTheirTargets :
    (∃ t, exec (.add 32768 32769 4) v1 = .next t) ∧
    (∃ t, exec (.wmem 0 9) (running [16, 0, 9]) = .next t) ∧
    (Instr.add 32768 32769 4).destination.bind dst ≠ some 7 ∧ (∀ a b, Instr.add 32768 32769 4 ≠ .wmem a b) ∧
    rd (running [16, 0, 9]) 0 = some 0 :=
  ⟨⟨_, rfl⟩, ⟨_, rfl⟩, by decide, by simp, by decide⟩

theorem witness_ProgramViewDeterminesEffect :
    (running [19, 65]).programView = ({ running [19, 65] with bp := [0], bpSkip := true } : State).programView ∧
    (∃ s', exec (.out 65) (running [19, 65]) = .next s') ∧
    (∃ t', exec (.out 65) ({ running [19, 65] with bp := [0], bpSkip := true } : State) = .next t') :=
  ⟨rfl, ⟨_, rfl⟩, ⟨_, rfl⟩⟩

theorem witness_BreakpointsOnlyDelay :
    ({ image [21, 0] with bp := [0] } : State).execState.terminal = false ∧
    ({ image [21, 0] with bp := [0] } : State).stop = false ∧
    ({ image [21, 0] with bp := [0] } : State).pause = false ∧
    ∃ t', step { ({ image [21, 0] with bp := [0] } : State) with bp := [], bpSkip := false } = .next t' :=
  ⟨by decide, by decide, by decide, _, rfl⟩

theorem witness_StoredWordIsFetchedNext :
    (running [16, 3, 21, 0]).mem.wf = true ∧ rd (running [16, 3, 21, 0]) 3 = some 3 ∧
    rd (running [16, 3, 21, 0]) 21 = some 21 ∧ (3 : Word).toNat < (running [16, 3, 21, 0]).memSize ∧
    ∃ t, exec (.wmem 3 21) (running [16, 3, 21, 0]) = .next t :=
  ⟨by decide, by decide, by decide, by decide, _, rfl⟩

theorem witness_OutputAndDiagnosticsOnlyGrow :
    ∃ t, runEvents [.attempt, .host .pause, .host .unpause, .attempt, .host .reset, .attempt] (image [19, 65, 22]) =
      .next t := ⟨_, rfl⟩

/-! ## Invariants -/

/-- A state that is not the reset state and meets the invariant: a full finite stack, a breakpoint that has fired. -/
def held : State := { full [21] with bp := [0, 9], bpSkip := true }

theorem held_inv : held.Inv where
  memSize_pos := by decide
  memSize_le := by decide
  mem_wf := by decide
  mem_below := by decide
  blueprint_wf := by decide
  blueprint_below := by decide
  pc_le := by decide
  depth_le := fun cap h => by cases h; decide
  halt_cause := by decide
  fault_cause := by decide
  pause_cause := by decide
  bp_rising := by decide
  skip_at_breakpoint := by decide

theorem witness_StepKeepsInvariant : held.Inv ∧ ∃ t, step held = .next t := ⟨held_inv, _, rfl⟩

theorem witness_HostOperationsKeepInvariant :
    held.Inv ∧ ∃ t, hostNew [0x15, 0x00] 1 none = .next t := ⟨held_inv, _, rfl⟩

/-! ## The host -/

theorem witness_StopEndsTheRunAtNextAttempt :
    (running [21]).execState.terminal = false ∧
    ({ image [0] with execState := .halted } : State).execState.terminal = true ∧
    (HostOp.unpause ≠ .reset ∧ (hostStop (running [21])).stop = true) ∧
    (∃ t, step (running [21]) = .next t) :=
  ⟨by decide, by decide, by decide, _, rfl⟩

theorem witness_PauseAndUnpauseToggleTheFlag :
    ((running [21]).execState.terminal = false ∧ (running [21]).stop = false) ∧
    ({ image [0] with execState := .faulted } : State).execState.terminal = true := by decide

theorem witness_BreakpointFiresOncePerArrival :
    ({ image [21, 0] with bp := [0] } : State).execState.terminal = false ∧
    ({ image [21, 0] with bp := [0] } : State).stop = false ∧
    ({ image [21, 0] with bp := [0] } : State).pause = false ∧
    ({ image [21, 0] with bp := [0] } : State).pc ∈ ({ image [21, 0] with bp := [0] } : State).bp ∧
    ({ image [21, 0] with bp := [0] } : State).bpSkip = false ∧
    ({ image [21, 0] with bp := [0] } : State).decodeAt 0 = .instr .noop := by decide

theorem witness_BreakpointAndInputInsertions : held.bp.Pairwise (· < ·) := by decide

/-- An engine whose program, blueprint included, is `IN R0`. -/
def waitingIn : State := { image [20, 32768] with blueprint := Memory.ofWords 0 [20, 32768] }

/-- R143's example begun: of `"ab"` the first IN takes 97; a NOOP takes nothing. -/
theorem witness_InputIsConsumedInOrder :
    (∃ t, runEvents [.host (.insertInput [97, 98]), .host .reset, .attempt] waitingIn = .next t) ∧
    bytesTaken [.host (.insertInput [97, 98]), .host .reset, .attempt] waitingIn = [97] ∧
    (∃ t, step { image [20, 32768] with inq := [97] } = .next t) ∧
    ({ image [20, 32768] with inq := [97] } : State).byteTaken = [97] ∧
    ({ image [21] with inq := [97] } : State).byteTaken = [] :=
  ⟨⟨_, rfl⟩, by decide, ⟨_, rfl⟩, by decide, by decide⟩

theorem witness_ResetIsHistoryFree :
    ∃ t, runEvents [.attempt, .attempt, .host .reset, .attempt] (image [16, 0, 22]) = .next t := ⟨_, rfl⟩

/-- The bounds on the size, an odd image, and an image longer and shorter than the memory. -/
theorem witness_NewBuildsTheImage :
    (0 = 0 ∨ 65536 < 0) ∧ (65537 = 0 ∨ 65536 < 65537) ∧
    (0 < 1 ∧ 1 ≤ 65536 ∧ ([0x13, 0x00, 0x41] : List Byte).length % 2 = 1) ∧
    (0 < 65536 ∧ 65536 ≤ 65536 ∧ ([0x13, 0x00, 0x41, 0x00] : List Byte).length = 2 * 2) ∧
    (0 < 1 ∧ 1 ≤ 65536 ∧ ([0x13, 0x00, 0x41, 0x00] : List Byte).length = 2 * 2) := by decide

theorem witness_ListingDecodesBack :
    ListingRecord.instr 1 (.out 10) ∈ disassemble [22, 19, 10, 1, 32768] ∧
    ListingRecord.data 0 22 ∈ disassemble [22, 19, 10, 1, 32768] ∧
    ListingRecord.data 3 1 ∈ disassemble [22, 19, 10, 1, 32768] := by decide

end Sys2Proof.Tests
end

section
/-! PROOFS. The state family (spec/10_state.md): every step attempt answers a next state, `DIAG` and `OUTPUT` only
grow, and the values after reset. -/

namespace Sys2Proof.Machine

/-! ## Every attempt answers a next state (R24, R151) -/

/-- Lines 6 to 9 of R151 answer a next state at every pc that R24 admits: only a pc beyond `MEM_SIZE` has no cell and is
not the end of memory. -/
theorem fetchAndExecute_next {s : State} (hpc : s.pc ≤ s.memSize) : ∃ t, fetchAndExecute s = .next t := by
  by_cases hend : s.pc = s.memSize
  · exact ⟨_, fetchAndExecute_end hend⟩
  cases hd : s.decodeAt s.pc with
  | instr i =>
    obtain ⟨t, ht, -⟩ := exec_ending i s
    exact ⟨t, (fetchAndExecute_instr hd).trans ht⟩
  | fault cause => exact ⟨_, fetchAndExecute_fault hd⟩
  | noCell =>
    have hbeyond : s.memSize ≤ s.pc := State.decodeAt_eq_noCell.mp hd
    omega

/-- A step attempt answers a next state at every pc that R24 admits: lines 1, 2, 3 and 5 of R151 end it at once, and
otherwise it goes on to fetch. -/
theorem step_next {s : State} (hpc : s.pc ≤ s.memSize) : ∃ t, step s = .next t := by
  unfold step stepAttempt
  split_ifs
  · exact ⟨_, rfl⟩
  · exact ⟨_, rfl⟩
  · exact ⟨_, rfl⟩
  · exact ⟨_, rfl⟩
  · exact fetchAndExecute_next (s := s.started) hpc

/-! ## Interleavings (R164) -/

/-- An interleaving that answers a next state took its first event to a state from which the rest answers it. -/
theorem runEvents_cons_eq_next {e : Event} {es : List Event} {s t : State} :
    runEvents (e :: es) s = .next t ↔ ∃ u, react e s = .next u ∧ runEvents es u = .next t := by
  rw [runEvents]
  cases react e s <;> simp

/-- A reflexive and transitive relation that every step attempt and every host operation establishes between the state
before and the state after holds along every interleaving. -/
theorem runEvents_rel {R : State → State → Prop} (refl : ∀ s, R s s) (trans : ∀ {s u t}, R s u → R u t → R s t)
    (attempt : ∀ {s t}, step s = .next t → R s t) (host : ∀ op s, R s (applyHostOp op s)) {es : List Event}
    {s t : State} (h : runEvents es s = .next t) : R s t := by
  induction es generalizing s with
  | nil => cases h; exact refl _
  | cons e es ih =>
    obtain ⟨u, hu, hrest⟩ := runEvents_cons_eq_next.mp h
    have first : R s u := by
      cases e with
      | attempt => exact attempt hu
      | host op => cases hu; exact host op s
    exact trans first (ih hrest)

/-! ## `DIAG` and `OUTPUT` are append-only (R38, R39) -/

/-- `DIAG` and `OUTPUT` of the first state are prefixes of the second's. -/
def StreamsGrow (s t : State) : Prop := s.diag <+: t.diag ∧ s.output <+: t.output

theorem StreamsGrow.refl (s : State) : StreamsGrow s s := ⟨List.prefix_rfl, List.prefix_rfl⟩

theorem StreamsGrow.trans {s u t : State} (h : StreamsGrow s u) (h' : StreamsGrow u t) : StreamsGrow s t :=
  ⟨h.1.trans h'.1, h.2.trans h'.2⟩

/-- Of a completing instruction's writes only OUT's reaches `OUTPUT`, and it appends (R39, R142). -/
theorem Effect.output_prefix {i : Instr} {s u : State} (e : Effect i s u) : s.output <+: u.output := by
  cases e with
  | emitted a b who => exact List.prefix_append _ _
  | _ => exact List.prefix_rfl

theorem Effect.diag_eq {i : Instr} {s u : State} (e : Effect i s u) : u.diag = s.diag := by
  obtain ⟨-, -, -, -, -, -, -, -, -, -, -, -, hdiag⟩ := e.frame
  exact hdiag

/-- A fault and the no-op each append one record, a completing instruction at most one byte (R38, R39). -/
theorem Ending.streamsGrow {i : Instr} {s t : State} (e : Ending i s t) : StreamsGrow s t := by
  cases e with
  | raised cause => exact ⟨List.prefix_append _ _, List.prefix_rfl⟩
  | skipped a dest bad => exact ⟨List.prefix_append _ _, List.prefix_rfl⟩
  | halted cause why => exact .refl s
  | stalled a r who dest empty => exact .refl s
  | completed u p effect target =>
    have hdiag : s.diag <+: u.diag := effect.diag_eq ▸ List.prefix_rfl
    exact ⟨hdiag, effect.output_prefix⟩

/-- Beside its instruction a step attempt writes `DIAG` only to append the record of a breakpoint or a decode fault. -/
theorem Attempt.streamsGrow {s t : State} (h : Attempt s t) : StreamsGrow s t := by
  cases h with
  | terminal | stopped | paused | endOfMemory => exact .refl s
  | breakpoint | decodeFault => exact ⟨List.prefix_append _ _, List.prefix_rfl⟩
  | executed ready i t hd he ending =>
    have running : StreamsGrow s.started t := ending.streamsGrow
    exact running

/-- No host operation writes `DIAG` or `OUTPUT`, not even `reset()` (R163, D21, D33). -/
theorem applyHostOp_streams (op : HostOp) (s : State) :
    (applyHostOp op s).diag = s.diag ∧ (applyHostOp op s).output = s.output := by
  cases op <;> exact ⟨rfl, rfl⟩

theorem applyHostOp_streamsGrow (op : HostOp) (s : State) : StreamsGrow s (applyHostOp op s) := by
  obtain ⟨hdiag, hout⟩ := applyHostOp_streams op s
  exact ⟨hdiag ▸ List.prefix_rfl, hout ▸ List.prefix_rfl⟩

/-! ## The obligations -/

/-- Settles O36: an instruction's endings all are next states, and R151 goes on to fetch only at a cell or at the end of
memory. -/
theorem everyAttemptAnswersNext : Obligations.EveryAttemptAnswersNext := by
  refine ⟨fun i s => ?_, fun s hpc => step_next hpc⟩
  obtain ⟨t, ht, -⟩ := exec_ending i s
  exact ⟨t, ht⟩

/-- Settles O47: `StreamsGrow` is reflexive and transitive, and every event establishes it. -/
theorem outputAndDiagnosticsOnlyGrow : Obligations.OutputAndDiagnosticsOnlyGrow := fun _ _ _ hrun =>
  runEvents_rel StreamsGrow.refl StreamsGrow.trans (fun hstep => (step_cases hstep).streamsGrow)
    applyHostOp_streamsGrow hrun

/-- Settles O59: the fields are those of `State.reset` as it is written, and the image of no bytes has no listed cell. -/
theorem resetStateHoldsTheResetValues : Obligations.ResetStateHoldsTheResetValues := by
  have cells : ∀ k, State.reset.mem.read k = 0 ∧ State.reset.blueprint.read k = 0 :=
    fun k => ⟨Memory.read_nil k, Memory.read_nil k⟩
  have new : hostNew [] 65536 none = .next State.reset := rfl
  exact ⟨rfl, rfl, rfl, rfl, rfl, rfl, rfl, rfl, rfl, rfl, rfl, rfl, rfl, rfl, cells, new⟩

end Sys2Proof.Machine
end

section
/-! PROOFS. The memory family (spec/20_memory.md): the access of one cell, the frame of every instruction, the cells a
completed WMEM leaves, and the order in which input bytes are consumed. -/

namespace Sys2Proof.Machine

/-! ## One whole cell (R50, R57) -/

/-- After a write in a canonical memory the written cell reads as the value and every other address as before. -/
theorem memRead_of_memWrite {s t : State} {addr : Nat} {v : Word} (hwf : s.mem.wf = true)
    (h : s.memWrite addr v = some t) (x : Nat) : t.memRead x = if x = addr then some v else s.memRead x := by
  obtain ⟨hlt, rfl⟩ := State.memWrite_eq_some.mp h
  split_ifs with hx
  · exact State.memRead_eq_some.mpr ⟨hx ▸ hlt, hx ▸ Memory.read_write_same hwf addr v⟩
  · simp only [State.memRead, Memory.read_write_of_ne s.mem v hx]

/-! ## The frame of every instruction (R21, R27, R37, R39, R52, R53) -/

/-- The two states hold the same registers, memory, stack, input queue and output stream. -/
structure State.SameData (t u : State) : Prop where
  regs : t.regs = u.regs
  mem : t.mem = u.mem
  stack : t.stack = u.stack
  inq : t.inq = u.inq
  output : t.output = u.output

/-- However an instruction ends, it leaves the data of one of its effects: a fault, the no-op, a halt and the stall that
of no effect at all. -/
theorem Ending.sameData_effect {i : Instr} {s t : State} (e : Ending i s t) : ∃ u, Effect i s u ∧ t.SameData u := by
  cases e with
  | completed u p effect target => exact ⟨u, effect, ⟨rfl, rfl, rfl, rfl, rfl⟩⟩
  | raised | skipped | halted | stalled => exact ⟨s, .nothing, ⟨rfl, rfl, rfl, rfl, rfl⟩⟩

section EffectFrame

variable {i : Instr} {s u : State} (e : Effect i s u)

include e

theorem Effect.regs_of_ne_destination {r : Fin 8} (hr : i.destination.bind dst ≠ some r) :
    u.regs[r] = s.regs[r] := by
  have other {q : Fin 8} (dest : i.destination.bind dst = some q) : q ≠ r := fun hq => hr (hq ▸ dest)
  cases e with
  | register q v dest => exact setReg_get_ne s v (other dest)
  | popped a q v who dest top => exact setReg_get_ne s.dropTop v (other (who ▸ dest))
  | consumed a q b rest who dest queue => exact setReg_get_ne s.dropInput _ (other (who ▸ dest))
  | nothing | pushed | returned | stored | emitted => rfl

theorem Effect.mem_eq (hi : ∀ a b, i ≠ .wmem a b) : u.mem = s.mem := by
  cases e with
  | stored a b addr v who => exact absurd who (hi a b)
  | nothing | register | pushed | popped | returned | emitted | consumed => rfl

/-- WMEM writes the cell at its resolved operand `a` and no other (R104). -/
theorem Effect.mem_read_of_ne {a b addr : Word} (hi : i = .wmem a b) (ha : rd s a = some addr) {x : Nat}
    (hx : x ≠ addr.toNat) : u.mem.read x = s.mem.read x := by
  cases e with
  | stored a' b' addr' v who ha' =>
    cases hi.symm.trans who
    cases ha.symm.trans ha'
    exact Memory.read_write_of_ne s.mem v hx
  | nothing | register | pushed | popped | returned | emitted | consumed => rfl

theorem Effect.stack_eq (hpush : ∀ a, i ≠ .push a) (hpop : ∀ a, i ≠ .pop a) (hcall : ∀ a, i ≠ .call a)
    (hret : i ≠ .ret) : u.stack = s.stack := by
  cases e with
  | pushed v who =>
    rcases who with ⟨a, who⟩ | ⟨a, who⟩
    · exact absurd who (hpush a)
    · exact absurd who (hcall a)
  | popped a r v who => exact absurd who (hpop a)
  | returned t who => exact absurd who hret
  | nothing | register | stored | emitted | consumed => rfl

theorem Effect.inq_eq (hi : ∀ a, i ≠ .in_ a) : u.inq = s.inq := by
  cases e with
  | consumed a r b rest who => exact absurd who (hi a)
  | nothing | register | pushed | popped | returned | stored | emitted => rfl

theorem Effect.output_eq (hi : ∀ a, i ≠ .out a) : u.output = s.output := by
  cases e with
  | emitted a b who => exact absurd who (hi a)
  | nothing | register | pushed | popped | returned | stored | consumed => rfl

end EffectFrame

/-! ## The cells after a completed WMEM (R63, R104) -/

/-- A WMEM whose sources resolve and whose cell exists makes the write and moves on. -/
theorem exec_wmem_of_memWrite {s t : State} {a b addr v : Word} (ha : rd s a = some addr) (hb : rd s b = some v)
    (ht : s.memWrite addr.toNat v = some t) : exec (.wmem a b) s = .next (t.retire (s.pc + 3)) := by
  rw [exec_wmem, execWmem, withRd_some ha, withRd_some hb, ht]

/-- The words a fetch takes are those that `MemRead` answers at the four addresses (R70, R74). -/
theorem wordsAt_of_memRead {s : State} {f : Nat → Option Word} (h : ∀ x, s.memRead x = f x) (p : Nat) :
    s.wordsAt p = [p, p + 1, p + 2, p + 3].filterMap f := by
  rw [State.wordsAt, funext h]

/-! ## Input is consumed first-in first-out (R62, R143) -/

/-- What the attempt from `s` to `t` does to `INQ`: nothing, or it takes exactly the head byte, into the destination of
the IN at the pc. -/
def TakesAtMostTheHead (s t : State) : Prop :=
  (s.byteTaken = [] ∧ t.inq = s.inq) ∨
    ∃ (byte : Byte) (a : Word) (r : Fin 8), s.byteTaken = [byte] ∧ s.inq = byte :: t.inq ∧
      s.decodeAt s.pc = .instr (.in_ a) ∧ dst a = some r ∧ t.regs[r].toNat = byte.toNat

/-- The inversion of IN: the no-op, the stall, or the head byte zero-extended into the destination (R94, R143, R144). -/
theorem exec_in_cases {a : Word} {s t : State} (h : exec (.in_ a) s = .next t) :
    (dst a = none ∧ t = s.invalidDestination a 2) ∨ (s.inq = [] ∧ t = s) ∨
    ∃ r b rest, dst a = some r ∧ s.inq = b :: rest ∧
      t = (s.dropInput.setReg r (b.setWidth 16)).retire (s.pc + 2) := by
  rw [exec_in, execIn] at h
  cases hd : dst a with
  | none =>
    rw [withDst_none hd] at h
    cases h
    exact .inl ⟨rfl, rfl⟩
  | some r =>
    rw [withDst_some hd] at h
    cases hq : s.inq with
    | nil =>
      rw [hq] at h
      cases h
      exact .inr (.inl ⟨rfl, rfl⟩)
    | cons b rest =>
      rw [hq] at h
      cases h
      exact .inr (.inr ⟨r, b, rest, rfl, rfl, rfl⟩)

/-- With a byte queued the engine does not wait for input (R43). -/
theorem waitingForInput_of_inq_cons {s : State} {b : Byte} {rest : List Byte} (h : s.inq = b :: rest) :
    s.waitingForInput = false := by
  simp [State.waitingForInput, h]

/-- An instruction with an invalid destination does not complete (R15, R94). -/
theorem instrOutcome_ne_completed {i : Instr} {a : Word} (s t : State) (dest : i.destination = some a)
    (bad : dst a = none) : instrOutcome i s t ≠ .completed := by
  have noOp : i.destination.any (fun a => (dst a).isNone) = true := by simp [dest, bad]
  unfold instrOutcome
  rw [if_pos noOp]
  split_ifs <;> exact nofun

/-- An instruction that leaves the engine running, with a valid destination and a byte queued before it, completes
(R15). -/
theorem instrOutcome_completed {i : Instr} {a : Word} {r : Fin 8} {s t : State} {b : Byte} {rest : List Byte}
    (running : t.execState = .running) (dest : i.destination = some a) (ok : dst a = some r)
    (queue : s.inq = b :: rest) : instrOutcome i s t = .completed := by
  simp [instrOutcome, running, waitingForInput_of_inq_cons queue, dest, ok]

/-- An attempt that ends before line 6 of R151 takes no byte. -/
theorem byteTaken_of_not_ready {s : State} (h : ¬s.Ready) : s.byteTaken = [] := by
  have notCompleted : attemptOutcome s ≠ some .completed := fun hc => h (ready_of_completed hc)
  by_cases hin : ∃ a, s.decodeAt s.pc = .instr (.in_ a)
  · obtain ⟨a, hd⟩ := hin
    rw [byteTaken_in hd, if_neg notCompleted]
  · exact byteTaken_eq_nil (not_exists.mp hin)

/-- An executed IN takes the head byte exactly when it completes. -/
theorem takesAtMostTheHead_of_in {s t : State} {a : Word} (ready : s.Ready)
    (hd : s.decodeAt s.pc = .instr (.in_ a)) (he : exec (.in_ a) s.started = .next t) : TakesAtMostTheHead s t := by
  have outcome := attemptOutcome_executed ready hd he
  rcases exec_in_cases he with ⟨bad, rfl⟩ | ⟨empty, rfl⟩ | ⟨r, b, rest, ok, queue, rfl⟩
  · have noOp : instrOutcome (.in_ a) s.started (s.started.invalidDestination a 2) ≠ .completed :=
      instrOutcome_ne_completed _ _ rfl bad
    exact .inl ⟨by rw [byteTaken_in hd, outcome, if_neg (mt Option.some.inj noOp)], rfl⟩
  · have queue : s.inq = [] := empty
    exact .inl ⟨by rw [byteTaken_in hd, queue, List.take_nil, ite_self], rfl⟩
  · rw [instrOutcome_completed rfl rfl ok queue] at outcome
    have queue : s.inq = b :: rest := queue
    refine .inr ⟨b, a, r, ?_, ?_, hd, ok, ?_⟩
    · rw [byteTaken_in hd, if_pos outcome, queue]
      rfl
    · simp [queue]
    · rw [State.retire_regs, setReg_get_same]
      exact BitVec.toNat_setWidth_of_le (by decide)

/-- Only an IN at the pc touches `INQ`, and it takes the head byte or nothing (R62). -/
theorem Attempt.takesAtMostTheHead {s t : State} (h : Attempt s t) : TakesAtMostTheHead s t := by
  cases h with
  | terminal h => exact .inl ⟨byteTaken_of_not_ready fun r => by simp [r.not_terminal] at h, rfl⟩
  | stopped ht h => exact .inl ⟨byteTaken_of_not_ready fun r => by simp [r.not_stop] at h, rfl⟩
  | paused ht hs h => exact .inl ⟨byteTaken_of_not_ready fun r => by simp [r.not_pause] at h, rfl⟩
  | breakpoint ht hs hp h hk => exact .inl ⟨byteTaken_of_not_ready fun r => r.no_breakpoint ⟨h, hk⟩, rfl⟩
  | endOfMemory ready h =>
    have noCell : s.decodeAt s.pc = .noCell := State.decodeAt_eq_noCell.mpr h.ge
    exact .inl ⟨byteTaken_eq_nil fun a hd => by simp [noCell] at hd, rfl⟩
  | decodeFault ready cause h => exact .inl ⟨byteTaken_eq_nil fun a hd => by simp [h] at hd, rfl⟩
  | executed ready i t hd he ending =>
    by_cases hin : ∃ a, i = .in_ a
    · obtain ⟨a, rfl⟩ := hin
      exact takesAtMostTheHead_of_in ready hd he
    · have notIn : ∀ a, i ≠ .in_ a := not_exists.mp hin
      obtain ⟨u, effect, same⟩ := ending.sameData_effect
      refine .inl ⟨byteTaken_eq_nil fun a hd' => notIn a ?_, same.inq.trans (effect.inq_eq notIn)⟩
      exact Fetched.instr.inj (hd.symm.trans hd')

/-- The queue before an attempt is the bytes it takes, then the queue after it. -/
theorem TakesAtMostTheHead.inq_eq {s t : State} (h : TakesAtMostTheHead s t) : s.inq = s.byteTaken ++ t.inq := by
  rcases h with ⟨taken, queue⟩ | ⟨byte, a, r, taken, queue, -⟩
  · rw [taken, queue, List.nil_append]
  · rw [taken, queue, List.singleton_append]

/-- `insert_input` appends its bytes; no other host operation writes `INQ`, not even `reset()` (R161, R163, D21). -/
theorem applyHostOp_inq (op : HostOp) (s : State) : (applyHostOp op s).inq = s.inq ++ op.inserted := by
  cases op with
  | insertInput text => rfl
  | reset | pause | unpause | stop | addBreakpoint => exact (List.append_nil _).symm

/-- One event loses no byte and doubles none. -/
theorem react_conserves_input {e : Event} {s t : State} (h : react e s = .next t) :
    s.inq ++ e.inserted = e.taken s ++ t.inq := by
  cases e with
  | attempt => exact (List.append_nil _).trans (step_cases h).takesAtMostTheHead.inq_eq
  | host op =>
    cases h
    exact (applyHostOp_inq op s).symm

/-- What an interleaving takes is what its first event takes, then what the rest takes from there. -/
theorem bytesTaken_cons {e : Event} {s u : State} (h : react e s = .next u) (es : List Event) :
    bytesTaken (e :: es) s = e.taken s ++ bytesTaken es u := by
  rw [bytesTaken, h]

/-- The bytes queued at first and inserted since are the bytes taken, in order, then those still queued. -/
theorem runEvents_conserves_input {es : List Event} {s t : State} (h : runEvents es s = .next t) :
    s.inq ++ es.flatMap Event.inserted = bytesTaken es s ++ t.inq := by
  induction es generalizing s with
  | nil =>
    cases h
    exact List.append_nil _
  | cons e es ih =>
    obtain ⟨u, hu, hrest⟩ := runEvents_cons_eq_next.mp h
    calc s.inq ++ (e :: es).flatMap Event.inserted
      _ = (s.inq ++ e.inserted) ++ es.flatMap Event.inserted := by rw [List.flatMap_cons, List.append_assoc]
      _ = e.taken s ++ (u.inq ++ es.flatMap Event.inserted) := by rw [react_conserves_input hu, List.append_assoc]
      _ = e.taken s ++ (bytesTaken es u ++ t.inq) := by rw [ih hrest]
      _ = bytesTaken (e :: es) s ++ t.inq := by rw [bytesTaken_cons hu, List.append_assoc]

/-! ## The obligations -/

/-- Settles O9: reading after the write is `memRead_of_memWrite`, and the write keeps the canonical form. -/
theorem memoryWriteChangesOneCell : Obligations.MemoryWriteChangesOneCell := by
  intro s addr v hwf
  refine ⟨fun hlt => ?_, fun hge => ⟨State.memWrite_eq_none.mpr hge, State.memRead_eq_none.mpr hge⟩⟩
  have write : s.memWrite addr v = some { s with mem := s.mem.write addr v } :=
    State.memWrite_eq_some.mpr ⟨hlt, rfl⟩
  have read := memRead_of_memWrite hwf write
  exact ⟨_, write, (read addr).trans (if_pos rfl), fun x hx => (read x).trans (if_neg hx), Memory.wf_write hwf addr v⟩

/-- Settles O43: an instruction leaves the data of one of its effects, and each effect writes one target only. -/
theorem instructionsChangeOnlyTheirTargets : Obligations.InstructionsChangeOnlyTheirTargets := by
  intro i s t h
  obtain ⟨u, effect, same⟩ := (exec_cases h).sameData_effect
  rw [same.regs, same.mem, same.stack, same.inq, same.output]
  exact ⟨fun r hr => effect.regs_of_ne_destination hr, effect.mem_eq,
    fun a b hi addr ha x hx => effect.mem_read_of_ne hi ha hx, effect.stack_eq, effect.inq_eq, effect.output_eq⟩

/-- Settles O46: the completed WMEM is one `MemWrite`, and a fetch takes the words that `MemRead` answers. -/
theorem storedWordIsFetchedNext : Obligations.StoredWordIsFetchedNext := by
  intro s t a b addr v hwf ha hb hlt h
  have write : s.memWrite addr.toNat v = some { s with mem := s.mem.write addr.toNat v } :=
    State.memWrite_eq_some.mpr ⟨hlt, rfl⟩
  rw [exec_wmem_of_memWrite ha hb write] at h
  cases h
  have read := memRead_of_memWrite hwf write
  exact ⟨read, wordsAt_of_memRead read⟩

/-- Settles O55: every event conserves the input bytes, so every interleaving does, by induction on its events. -/
theorem inputIsConsumedInOrder : Obligations.InputIsConsumedInOrder := by
  refine ⟨fun es s t h => runEvents_conserves_input h, fun s t h => (step_cases h).takesAtMostTheHead, fun op s => ?_⟩
  cases op <;> exact applyHostOp_inq _ s

end Sys2Proof.Machine
end

section
/-! PROOFS. The encoding family (spec/30_encoding.md): unknown opcodes, the operands of well-formed instructions, and the
listing. -/

namespace Sys2Proof

/-! ## Opcode words above 21 (R78) -/

/-- The opcode map has no row above 21. -/
theorem decodeOp_of_unknown {op : Word} (hop : 21 < op.toNat) (rest : List Word) :
    decodeOp op rest = .error (.unknownOpcode op) := by
  unfold decodeOp
  split
  case h_23 => rfl
  all_goals omega

namespace Machine

/-- The first word a fetch takes is the one at its address. -/
theorem State.wordsAt_of_memRead_eq_some {s : State} {addr : Nat} {op : Word} (h : s.memRead addr = some op) :
    ∃ rest, s.wordsAt addr = op :: rest :=
  ⟨_, List.filterMap_cons_some h⟩

theorem State.decodeAt_of_unknown {s : State} {addr : Nat} {op : Word} (h : s.memRead addr = some op)
    (hop : 21 < op.toNat) : s.decodeAt addr = .fault (.unknownOpcode op) := by
  obtain ⟨rest, hw⟩ := State.wordsAt_of_memRead_eq_some h
  rw [State.decodeAt, hw, decodeWords, decodeOp_of_unknown hop]

/-- A decode fault is taken by the running engine (R151 line 7). -/
theorem step_of_decodeFault {s : State} {cause : FaultCause} (ready : s.Ready) (h : s.decodeAt s.pc = .fault cause) :
    step s = .next (s.started.raise cause) :=
  (step_of_ready ready).trans (fetchAndExecute_fault ((decodeAt_started s s.pc).trans h))

end Machine

/-! ## The operands of a well-formed instruction (R72, R73) -/

theorem isSource_of_isRegRef {w : Word} (h : isRegRef w = true) : isSource w = true := by
  simp only [isRegRef, Bool.and_eq_true] at h
  exact h.2

/-- Every operand of a well-formed instruction, in either role, is a literal or a register reference. -/
theorem Instr.isSource_of_wf {i : Instr} (hi : i.wf = true) : ∀ w ∈ i.operands, isSource w = true := by
  cases i with
  | halt | ret | noop => exact nofun
  | push a | jmp a | call a | out a | jt a b | jf a b | wmem a b => simpa [Instr.operands, Instr.wf] using hi
  | pop a | in_ a => simpa [Instr.operands] using isSource_of_isRegRef hi
  | set a b | not a b | rmem a b =>
    simp only [Instr.wf, Bool.and_eq_true] at hi
    obtain ⟨ha, hb⟩ := hi
    simpa [Instr.operands, hb] using isSource_of_isRegRef ha
  | eq a b c | gt a b c | add a b c | mult a b c | mod a b c | and a b c | or a b c =>
    simp only [Instr.wf, Bool.and_eq_true] at hi
    obtain ⟨⟨ha, hb⟩, hc⟩ := hi
    simpa [Instr.operands, hb, hc] using isSource_of_isRegRef ha

theorem Instr.isRegRef_of_wf {i : Instr} (hi : i.wf = true) {a : Word} (ha : i.destination = some a) :
    isRegRef a = true := by
  cases i with
  | halt | push | jmp | jt | jf | wmem | call | ret | out | noop => cases ha
  | pop | in_ =>
    cases ha
    exact hi
  | set | not | rmem =>
    cases ha
    simp only [Instr.wf, Bool.and_eq_true] at hi
    exact hi.1
  | eq | gt | add | mult | mod | and | or =>
    cases ha
    simp only [Instr.wf, Bool.and_eq_true] at hi
    exact hi.1.1

namespace Machine

theorem dst_of_isRegRef {a : Word} (h : isRegRef a = true) : dst a ≠ none := by
  simp only [isRegRef, Config.regBase, Config.regTop, Bool.and_eq_true, decide_eq_true_eq] at h
  have reg : dst a = some ⟨a.toNat - 32768, by omega⟩ := dst_eq_some.mpr (by simp only; omega)
  simp [reg]

theorem rd_of_isSource (s : State) {w : Word} (h : isSource w = true) : rd s w ≠ none := by
  simp only [isSource, Config.regTop, decide_eq_true_eq] at h
  rw [Ne, rd_eq_none]
  omega

/-- The only word that `MalformedOperand` is recorded for in `t` is an operand of `i` that does not resolve in `s`. -/
def BlamesAnOperand (i : Instr) (s t : State) : Prop :=
  ∀ w, t.faultCause = some (.malformedOperand w) → w ∈ i.operands ∧ rd s w = none

section Blame

variable {i : Instr} {s : State}

theorem BlamesAnOperand.of_none {t : State} (h : t.faultCause = none) : BlamesAnOperand i s t := by
  intro w hw
  rw [h] at hw
  cases hw

theorem BlamesAnOperand.raise {cause : FaultCause} (h : ∀ w, cause ≠ .malformedOperand w) :
    BlamesAnOperand i s (s.raise cause) :=
  fun w hw => absurd (Option.some.inj hw) (h w)

theorem BlamesAnOperand.withRd {w : Word} {k : Word → State} (ok : ∀ v, BlamesAnOperand i s (k v))
    (hw : w ∈ i.operands := by simp [Instr.operands]) : BlamesAnOperand i s (withRd w s k) := by
  refine withRd_rule (fun bad => ?_) fun v _ => ok v
  intro w' hw'
  cases hw'
  exact ⟨hw, bad⟩

theorem BlamesAnOperand.withDst {a : Word} {n : Nat} {k : Fin 8 → State} (clean : s.faultCause = none)
    (ok : ∀ r, BlamesAnOperand i s (k r)) : BlamesAnOperand i s (withDst a n s k) :=
  withDst_rule (fun _ => .of_none clean) fun r _ => ok r

theorem BlamesAnOperand.aluOp3 {f : Word → Word → Word} {a b c : Word} (clean : s.faultCause = none)
    (hb : b ∈ i.operands := by simp [Instr.operands]) (hc : c ∈ i.operands := by simp [Instr.operands]) :
    BlamesAnOperand i s (aluOp3 f a b c s) :=
  .withDst clean fun _ => .withRd (fun _ => .withRd (fun _ => .of_none clean) hc) hb

theorem BlamesAnOperand.jumpTo (t : Word) (clean : s.faultCause = none) : BlamesAnOperand i s (jumpTo t s) := by
  unfold Machine.jumpTo
  split_ifs
  · exact .of_none clean
  · exact .raise nofun

end Blame

/-- `MalformedOperand` comes from the resolution of an operand and from nothing else (R92). -/
theorem exec_blamesAnOperand (i : Instr) {s : State} (clean : s.faultCause = none) :
    ∃ t, exec i s = .next t ∧ BlamesAnOperand i s t := by
  cases i with
  | halt | noop => exact ⟨_, rfl, .of_none clean⟩
  | set a b | not a b =>
    exact ⟨_, rfl, .withDst clean fun _ => .withRd fun _ => .of_none clean⟩
  | eq a b c | gt a b c | add a b c | mult a b c | and a b c | or a b c =>
    exact ⟨_, rfl, .aluOp3 clean⟩
  | mod a b c =>
    refine ⟨_, rfl, .withDst clean fun r => .withRd fun vb =>
      .withRd fun vc => ?_⟩
    split_ifs
    · exact .raise nofun
    · exact .of_none clean
  | jmp a => exact ⟨_, rfl, .withRd fun t => .jumpTo t clean⟩
  | jt a b | jf a b =>
    refine ⟨_, rfl, .withRd fun va => .withRd fun t => ?_⟩
    split_ifs
    · exact .jumpTo t clean
    · exact .of_none clean
  | push a | out a =>
    refine ⟨_, rfl, .withRd fun v => ?_⟩
    split_ifs
    · exact .raise nofun
    · exact .of_none clean
  | call a =>
    refine ⟨_, rfl, .withRd fun t => ?_⟩
    split_ifs
    · exact .raise nofun
    · exact .raise nofun
    · exact .raise nofun
    · exact .of_none clean
  | pop a =>
    refine ⟨_, rfl, .withDst clean fun r => ?_⟩
    split
    · exact .raise nofun
    · exact .of_none clean
  | in_ a =>
    refine ⟨_, rfl, .withDst clean fun r => ?_⟩
    split
    · exact .of_none clean
    · exact .of_none clean
  | rmem a b =>
    refine ⟨_, rfl, .withDst clean fun r => .withRd fun addr => ?_⟩
    split
    · exact .raise nofun
    · exact .of_none clean
  | wmem a b =>
    refine ⟨_, rfl, .withRd fun addr => .withRd fun v => ?_⟩
    split
    · exact .raise nofun
    · rename_i t ht
      obtain ⟨-, rfl⟩ := State.memWrite_eq_some.mp ht
      exact .of_none clean
  | ret =>
    refine ⟨_, rfl, ?_⟩
    split
    · exact .of_none clean
    · split_ifs
      · exact .of_none clean
      · exact .raise nofun

/-- The record of an invalid destination is appended only by an instruction that has one (R94). -/
theorem Ending.diag_ne_of_valid {i : Instr} {s t : State} (e : Ending i s t)
    (valid : ∀ a, i.destination = some a → dst a ≠ none) (w : Word) :
    t.diag ≠ s.diag ++ [s.record (.operandAddressError w)] := by
  cases e with
  | raised cause => simp [State.record]
  | skipped a dest bad => exact absurd bad (valid a dest)
  | halted | stalled => simp
  | completed u p effect target => simp [effect.diag_eq]

end Machine

/-! ## The words of a decoded instruction (R70, R71, R75) -/

section EncodeDecoded

variable {op : Word} {n : Nat} {ws rest : List Word} {i : Instr}

theorem encode_of_decoded {j : Instr} (hop : op.toNat = n) (enc : encode j = [BitVec.ofNat 16 n])
    (h : Decoded.instr j ws = .instr i rest) : op :: ws = encode i ++ rest := by
  cases h
  simp [enc, ← hop]

theorem encode_of_decodeOperands1 {f : Word → Instr} (hop : op.toNat = n)
    (enc : ∀ a, encode (f a) = [BitVec.ofNat 16 n, a]) (h : decodeOperands1 f ws = .instr i rest) :
    op :: ws = encode i ++ rest := by
  obtain ⟨a, rfl, rfl⟩ := decodeOperands1_eq_instr.mp h
  simp [enc, ← hop]

theorem encode_of_decodeOperands2 {f : Word → Word → Instr} (hop : op.toNat = n)
    (enc : ∀ a b, encode (f a b) = [BitVec.ofNat 16 n, a, b]) (h : decodeOperands2 f ws = .instr i rest) :
    op :: ws = encode i ++ rest := by
  obtain ⟨a, b, rfl, rfl⟩ := decodeOperands2_eq_instr.mp h
  simp [enc, ← hop]

theorem encode_of_decodeOperands3 {f : Word → Word → Word → Instr} (hop : op.toNat = n)
    (enc : ∀ a b c, encode (f a b c) = [BitVec.ofNat 16 n, a, b, c]) (h : decodeOperands3 f ws = .instr i rest) :
    op :: ws = encode i ++ rest := by
  obtain ⟨a, b, c, rfl, rfl⟩ := decodeOperands3_eq_instr.mp h
  simp [enc, ← hop]

end EncodeDecoded

/-- Words that decode to an instruction begin with that instruction's own words (R70, R71, R75): case `h_k` of the opcode
map is opcode `k - 1`. -/
theorem eq_encode_append_of_decodeWords {ws rest : List Word} {i : Instr} (h : decodeWords ws = .instr i rest) :
    ws = encode i ++ rest := by
  cases ws with
  | nil => cases h
  | cons op ws =>
    simp only [decodeWords, decodeOp] at h
    split at h
    case h_1 hop | h_19 hop | h_22 hop => exact encode_of_decoded hop rfl h
    case h_3 hop | h_4 hop | h_7 hop | h_18 hop | h_20 hop | h_21 hop =>
      exact encode_of_decodeOperands1 hop (fun _ => rfl) h
    case h_2 hop | h_8 hop | h_9 hop | h_15 hop | h_16 hop | h_17 hop =>
      exact encode_of_decodeOperands2 hop (fun _ _ => rfl) h
    case h_5 hop | h_6 hop | h_10 hop | h_11 hop | h_12 hop | h_13 hop | h_14 hop =>
      exact encode_of_decodeOperands3 hop (fun _ _ _ => rfl) h
    case h_23 => cases h

theorem length_encode (i : Instr) : (encode i).length = i.width := Nat.add_comm _ 1

/-- The words after a decoded instruction stand its width further on. -/
theorem drop_add_width {memory rest : List Word} {addr : Nat} {i : Instr}
    (h : decodeWords (memory.drop addr) = .instr i rest) : memory.drop (addr + i.width) = rest := by
  rw [← List.drop_drop, eq_encode_append_of_decodeWords h, List.drop_left' (length_encode i)]

namespace Machine

/-! ## A listing (R82) -/

/-- The words of memory that a record stands for. -/
def ListingRecord.words : ListingRecord → List Word
  | .instr _ i => encode i
  | .data _ w => [w]

/-- A record says what decoding at its address gives: the instruction, or the word there where none decodes. -/
def ListingRecord.Faithful (memory : List Word) : ListingRecord → Prop
  | .instr p i => ∃ rest, decodeWords (memory.drop p) = .instr i rest
  | .data p w => memory[p]? = some w ∧ ∃ e, decodeWords (memory.drop p) = .error e

theorem listFrom_of_instr {fuel addr : Nat} {w : Word} {ws rest : List Word} {i : Instr}
    (h : decodeWords (w :: ws) = .instr i rest) :
    listFrom (fuel + 1) addr (w :: ws) = .instr addr i :: listFrom fuel (addr + i.width) rest := by
  rw [listFrom, h]

theorem listFrom_of_error {fuel addr : Nat} {w : Word} {ws : List Word} {e : DecodeError}
    (h : decodeWords (w :: ws) = .error e) :
    listFrom (fuel + 1) addr (w :: ws) = .data addr w :: listFrom fuel (addr + 1) ws := by
  rw [listFrom, h]

/-- Every record of the walk over the rest of a memory is faithful to that memory, by induction on the fuel. -/
theorem listFrom_faithful (memory : List Word) (fuel addr : Nat) :
    ∀ r ∈ listFrom fuel addr (memory.drop addr), r.Faithful memory := by
  induction fuel generalizing addr with
  | zero => exact nofun
  | succ fuel ih =>
    cases hws : memory.drop addr with
    | nil => exact nofun
    | cons w ws =>
      cases hd : decodeWords (w :: ws) with
      | instr i rest =>
        have here : decodeWords (memory.drop addr) = .instr i rest := hws ▸ hd
        rw [listFrom_of_instr hd, List.forall_mem_cons, ← drop_add_width here]
        exact ⟨⟨_, here⟩, ih _⟩
      | error e =>
        have word : memory[addr]? = some w := by rw [← List.head?_drop, hws, List.head?_cons]
        have next : memory.drop (addr + 1) = ws := by rw [← List.drop_drop, hws, List.drop_succ_cons, List.drop_zero]
        rw [listFrom_of_error hd, List.forall_mem_cons, ← next]
        exact ⟨⟨word, e, hws ▸ hd⟩, ih _⟩

/-- With fuel for every word the walk's records are the words it was given, in order, by induction on the fuel. -/
theorem listFrom_words {fuel addr : Nat} {ws : List Word} (hfuel : ws.length ≤ fuel) :
    (listFrom fuel addr ws).flatMap ListingRecord.words = ws := by
  induction fuel generalizing addr ws with
  | zero => exact (List.length_eq_zero_iff.mp (by omega)).symm
  | succ fuel ih =>
    cases ws with
    | nil => rfl
    | cons w ws =>
      rw [List.length_cons] at hfuel
      cases hd : decodeWords (w :: ws) with
      | instr i rest =>
        have len : i.width + rest.length = ws.length + 1 := length_of_decodeWords hd
        have pos : 1 ≤ i.width := Nat.le_add_right 1 _
        rw [listFrom_of_instr hd, List.flatMap_cons, ih (by omega)]
        exact (eq_encode_append_of_decodeWords hd).symm
      | error e =>
        rw [listFrom_of_error hd, List.flatMap_cons, ih (by omega)]
        rfl

/-! ## The obligations -/

/-- Settles O4: the opcode map has no row for the word, so decoding at the pc is a fault, and a ready engine takes it. -/
theorem unknownOpcodeFaults : Obligations.UnknownOpcodeFaults := by
  intro op hop
  refine ⟨fun rest => decodeOp_of_unknown hop rest, fun s hterminal hstop hpause hbreak hcell => ?_⟩
  exact step_of_decodeFault ⟨hterminal, hstop, hpause, hbreak⟩ (State.decodeAt_of_unknown hcell hop)

/-- Settles O7: every operand resolves, so none can be blamed, and the destination names a register. -/
theorem wellFormedInstructionsResolveTheirOperands : Obligations.WellFormedInstructionsResolveTheirOperands := by
  intro i s t hwf clean h
  obtain ⟨u, hu, blame⟩ := exec_blamesAnOperand i clean
  cases h.symm.trans hu
  refine ⟨fun w hw => ?_, (exec_cases h).diag_ne_of_valid fun a ha => dst_of_isRegRef (Instr.isRegRef_of_wf hwf ha)⟩
  obtain ⟨operand, unresolved⟩ := blame w hw
  exact rd_of_isSource s (Instr.isSource_of_wf hwf w operand) unresolved

/-- Settles O60: the walk from address 0 is faithful record by record, and its records are the memory's words. -/
theorem listingDecodesBack : Obligations.ListingDecodesBack := by
  intro memory
  have faithful : ∀ r ∈ disassemble memory, r.Faithful memory := listFrom_faithful memory memory.length 0
  refine ⟨fun p i hmem => faithful _ hmem, fun p w hmem => faithful _ hmem, ?_⟩
  have words : (disassemble memory).flatMap ListingRecord.words = memory := listFrom_words le_rfl
  exact words

end Machine

end Sys2Proof
end

section
/-! PROOFS. The operand family (spec/40_operand_resolution.md): the three classes of an operand word in either role, and
the reported no-op of an invalid destination. -/

namespace Sys2Proof.Machine

/-! ## The destination test comes first (R94, R96 step 1) -/

/-- An instruction that has a destination begins with the test of it, for the instruction's own width: what follows the
test is reached only with a valid register. -/
theorem exec_eq_withDst {i : Instr} {a : Word} (dest : i.destination = some a) (s : State) :
    ∃ k, exec i s = .next (withDst a i.width s k) := by
  cases i with
  | halt | push | jmp | jt | jf | wmem | call | ret | out | noop => cases dest
  | set | pop | eq | gt | add | mult | mod | and | or | not | rmem | in_ =>
    cases dest
    exact ⟨_, rfl⟩

theorem exec_of_dst_eq_none {i : Instr} {a : Word} (dest : i.destination = some a) (bad : dst a = none) (s : State) :
    exec i s = .next (s.invalidDestination a i.width) := by
  obtain ⟨k, hk⟩ := exec_eq_withDst dest s
  rw [hk, withDst_none bad]

/-! ## The obligations -/

/-- Settles O33: the destination test comes before every other, and an invalid destination ends it in the no-op, whose
writes are the record, the pc and `BPSKIP`. -/
theorem invalidDestinationIsReportedNoOp : Obligations.InvalidDestinationIsReportedNoOp :=
  fun _ s _ dest bad => exec_of_dst_eq_none dest bad s

/-- Settles O5: each range of words is one class, and `rd` answers by the class. -/
theorem sourceResolvesByItsClass : Obligations.SourceResolvesByItsClass := by
  intro s w
  refine ⟨fun literal => rd_of_literal (classify_literal literal),
    fun r register => rd_of_register (classify_register register), fun malformed => ?_⟩
  have unresolved : rd s w = none := rd_eq_none.mpr malformed
  exact ⟨unresolved, fun _ => withRd_none unresolved⟩

/-- Settles O6: each range of words is one class, and only the register class names a destination. -/
theorem destinationResolvesByItsClass : Obligations.DestinationResolvesByItsClass := by
  intro w
  refine ⟨fun literal => ?_, fun r register => ?_, fun malformed => ?_⟩
  · have class_eq := classify_literal literal
    exact ⟨class_eq, dst_of_literal class_eq⟩
  · have class_eq := classify_register register
    exact ⟨class_eq, dst_of_register class_eq⟩
  · have class_eq := classify_malformed malformed
    exact ⟨class_eq, dst_of_malformed class_eq⟩

end Sys2Proof.Machine
end

section
/-! PROOFS. The data movement family (spec/41_data_movement.md): SET, POP, RMEM and WMEM, one lemma for each way that
the tests of R96 let one of them end. -/

namespace Sys2Proof.Machine

section Endings

variable {s : State} {a b : Word} {r : Fin 8}

/-! ## SET (R100) -/

theorem exec_set_of_malformed_source (ha : dst a = some r) (hb : rd s b = none) :
    exec (.set a b) s = .next (s.raise (.malformedOperand b)) := by
  rw [exec_set, execSet, withDst_some ha, withRd_none hb]

theorem exec_set_of_resolved {v : Word} (ha : dst a = some r) (hb : rd s b = some v) :
    exec (.set a b) s = .next ((s.setReg r v).retire (s.pc + 3)) := by
  rw [exec_set, execSet, withDst_some ha, withRd_some hb]

/-! ## POP (R102): the top of the stack is the last entry of the list (R27) -/

theorem State.top_of_nil (h : s.stack = []) : s.top = none := by
  rw [State.top, h, List.getLast?_nil]

theorem State.top_of_concat {rest : List Word} {v : Word} (h : s.stack = rest ++ [v]) : s.top = some v := by
  rw [State.top, h, List.getLast?_concat]

theorem State.dropTop_of_concat {rest : List Word} {v : Word} (h : s.stack = rest ++ [v]) :
    s.dropTop = { s with stack := rest } := by
  rw [State.dropTop, h, List.dropLast_concat]

theorem exec_pop_of_empty (ha : dst a = some r) (empty : s.stack = []) :
    exec (.pop a) s = .next (s.raise .stackUnderflow) := by
  rw [exec_pop, execPop, withDst_some ha, State.top_of_nil empty]

theorem exec_pop_of_concat {rest : List Word} {v : Word} (ha : dst a = some r) (h : s.stack = rest ++ [v]) :
    exec (.pop a) s = .next ((({ s with stack := rest } : State).setReg r v).retire (s.pc + 2)) := by
  rw [exec_pop, execPop, withDst_some ha, State.top_of_concat h, State.dropTop_of_concat h]

/-! ## RMEM (R103) -/

theorem exec_rmem_of_malformed_source (ha : dst a = some r) (hb : rd s b = none) :
    exec (.rmem a b) s = .next (s.raise (.malformedOperand b)) := by
  rw [exec_rmem, execRmem, withDst_some ha, withRd_none hb]

theorem exec_rmem_of_memSize_le {addr : Word} (ha : dst a = some r) (hb : rd s b = some addr)
    (outside : s.memSize ≤ addr.toNat) : exec (.rmem a b) s = .next (s.raise (.memoryAddressOutOfRange addr)) := by
  rw [exec_rmem, execRmem, withDst_some ha, withRd_some hb, State.memRead_eq_none.mpr outside]

theorem exec_rmem_of_memRead {addr v : Word} (ha : dst a = some r) (hb : rd s b = some addr)
    (cell : s.memRead addr.toNat = some v) : exec (.rmem a b) s = .next ((s.setReg r v).retire (s.pc + 3)) := by
  rw [exec_rmem, execRmem, withDst_some ha, withRd_some hb, cell]

/-! ## WMEM (R104): both operands are sources; the completed write is `exec_wmem_of_memWrite` -/

theorem exec_wmem_of_malformed_address (ha : rd s a = none) :
    exec (.wmem a b) s = .next (s.raise (.malformedOperand a)) := by
  rw [exec_wmem, execWmem, withRd_none ha]

theorem exec_wmem_of_malformed_value {addr : Word} (ha : rd s a = some addr) (hb : rd s b = none) :
    exec (.wmem a b) s = .next (s.raise (.malformedOperand b)) := by
  rw [exec_wmem, execWmem, withRd_some ha, withRd_none hb]

theorem exec_wmem_of_memSize_le {addr v : Word} (ha : rd s a = some addr) (hb : rd s b = some v)
    (outside : s.memSize ≤ addr.toNat) : exec (.wmem a b) s = .next (s.raise (.memoryAddressOutOfRange addr)) := by
  rw [exec_wmem, execWmem, withRd_some ha, withRd_some hb, State.memWrite_eq_none.mpr outside]

end Endings

/-! ## The obligations -/

/-- Settles O14: RMEM ends in one of four ways, WMEM in one of four, and what the completed WMEM leaves is the memory
with one `Memory.write`, which changes the cell it names and no other. -/
theorem memoryInstructionsMoveOneWord : Obligations.MemoryInstructionsMoveOneWord := by
  intro s a b
  constructor
  · exact ⟨rfl, fun bad => exec_of_dst_eq_none rfl bad s, fun r => exec_rmem_of_malformed_source,
      fun r addr => exec_rmem_of_memSize_le, fun r addr v => exec_rmem_of_memRead⟩
  · refine ⟨rfl, exec_wmem_of_malformed_address, fun addr => exec_wmem_of_malformed_value,
      fun addr v => exec_wmem_of_memSize_le, fun addr v ha hb inside => ?_⟩
    have write : s.memWrite addr.toNat v = some { s with mem := s.mem.write addr.toNat v } :=
      State.memWrite_eq_some.mpr ⟨inside, rfl⟩
    exact ⟨s.mem.write addr.toNat v, exec_wmem_of_memWrite ha hb write,
      fun x hx => Memory.read_write_of_ne s.mem v hx,
      fun canonical => ⟨Memory.read_write_same canonical addr.toNat v, Memory.wf_write canonical addr.toNat v⟩⟩

/-- Settles O11: the destination is tested first, then the source resolved, and the completed SET is one register
write. -/
theorem setCopiesSourceToRegister : Obligations.SetCopiesSourceToRegister := by
  intro s a b
  exact ⟨rfl, fun bad => exec_of_dst_eq_none rfl bad s, fun r => exec_set_of_malformed_source,
    fun r v => exec_set_of_resolved⟩

/-- Settles O13: the destination is tested first, then the stack, whose last entry POP moves to the register. -/
theorem popMovesTopToRegister : Obligations.PopMovesTopToRegister := by
  intro s a
  exact ⟨rfl, fun bad => exec_of_dst_eq_none rfl bad s, fun r => exec_pop_of_empty,
    fun r v rest => exec_pop_of_concat⟩

end Sys2Proof.Machine
end

section
/-! PROOFS. The arithmetic and logic family (spec/42_alu.md): the values of the functions of R111 to R118, one lemma for
each way that the tests of R96 let an instruction end, and the range of every result (R119). -/

namespace Sys2Proof.Machine

/-! ## The values of the functions (R110 to R118) -/

/-- Reducing a Word modulo 32768 keeps its bits 14:0 (R116, R117). -/
theorem reduce_toNat_eq_and (w : Word) : reduce w.toNat = w &&& 0x7FFF := by
  apply BitVec.eq_of_toNat_eq
  calc (reduce w.toNat).toNat
      = w.toNat % 2 ^ 15 := reduce_toNat _
    _ = w.toNat &&& 2 ^ 15 - 1 := (Nat.and_two_pow_sub_one_eq_mod _ _).symm
    _ = (w &&& 0x7FFF).toNat := (BitVec.toNat_and w 0x7FFF).symm

/-- The value is one of the 15-bit results, in [0, 32767] (R119). -/
def IsReduced (v : Word) : Prop := v.toNat ≤ 32767

/-- The value is one of the results of a comparison, 0 or 1 (R119). -/
def IsTruthValue (v : Word) : Prop := v = 0 ∨ v = 1

theorem isReduced_reduce (n : Nat) : IsReduced (reduce n) := by
  rw [IsReduced, reduce_toNat]
  omega

/-- The 15-bit complement of R118 as a number. -/
theorem aluNot_toNat (vb : Word) : (aluNot vb).toNat = 32767 - vb.toNat % 32768 := by
  rw [aluNot, ← reduce_toNat_eq_and, reduce_toNat, BitVec.toNat_not]
  omega

theorem isReduced_aluNot (vb : Word) : IsReduced (aluNot vb) := by
  rw [IsReduced, aluNot_toNat]
  omega

theorem isTruthValue_aluEq (vb vc : Word) : IsTruthValue (aluEq vb vc) := (ite_eq_or_eq _ 1 0).symm

theorem isTruthValue_aluGt (vb vc : Word) : IsTruthValue (aluGt vb vc) := (ite_eq_or_eq _ 1 0).symm

/-! ## The endings of an instruction (R94, R96) -/

section Endings

variable {s : State} {a b c : Word} {r : Fin 8}

/-- An instruction that means a three-operand form ends as the form does (R110): `aluOp3_spec` in terms of `exec`. -/
theorem exec_of_aluOp3 {i : Instr} {f : Word → Word → Word} (meaning : exec i s = .next (aluOp3 f a b c s)) :
    (dst a = none → exec i s = .next (s.invalidDestination a 4)) ∧
    (∀ r, dst a = some r → rd s b = none → exec i s = .next (s.raise (.malformedOperand b))) ∧
    (∀ r vb, dst a = some r → rd s b = some vb → rd s c = none →
      exec i s = .next (s.raise (.malformedOperand c))) ∧
    (∀ r vb vc, dst a = some r → rd s b = some vb → rd s c = some vc →
      exec i s = .next ((s.setReg r (f vb vc)).retire (s.pc + 4))) := by
  simp only [meaning, Host.Outcome.next.injEq]
  exact aluOp3_spec f a b c s

/-! ### MOD (R115): both sources are resolved before the divisor is tested -/

theorem exec_mod_of_malformed_dividend (ha : dst a = some r) (hb : rd s b = none) :
    exec (.mod a b c) s = .next (s.raise (.malformedOperand b)) := by
  rw [exec_mod, execMod, withDst_some ha, withRd_none hb]

theorem exec_mod_of_malformed_divisor {vb : Word} (ha : dst a = some r) (hb : rd s b = some vb) (hc : rd s c = none) :
    exec (.mod a b c) s = .next (s.raise (.malformedOperand c)) := by
  rw [exec_mod, execMod, withDst_some ha, withRd_some hb, withRd_none hc]

theorem exec_mod_of_zero_divisor {vb : Word} (ha : dst a = some r) (hb : rd s b = some vb) (hc : rd s c = some 0) :
    exec (.mod a b c) s = .next (s.raise (.moduloByZero vb)) := by
  rw [exec_mod, execMod, withDst_some ha, withRd_some hb, withRd_some hc, if_pos rfl]

theorem exec_mod_of_ne_zero {vb vc : Word} (ha : dst a = some r) (hb : rd s b = some vb) (hc : rd s c = some vc)
    (nonzero : vc ≠ 0) : exec (.mod a b c) s = .next ((s.setReg r (aluMod vb vc)).retire (s.pc + 4)) := by
  rw [exec_mod, execMod, withDst_some ha, withRd_some hb, withRd_some hc, if_neg nonzero]

/-! ### NOT (R118) -/

theorem exec_not_of_malformed_source (ha : dst a = some r) (hb : rd s b = none) :
    exec (.not a b) s = .next (s.raise (.malformedOperand b)) := by
  rw [exec_not, execNot, withDst_some ha, withRd_none hb]

theorem exec_not_of_resolved {vb : Word} (ha : dst a = some r) (hb : rd s b = some vb) :
    exec (.not a b) s = .next ((s.setReg r (aluNot vb)).retire (s.pc + 3)) := by
  rw [exec_not, execNot, withDst_some ha, withRd_some hb]

end Endings

/-! ## What the destination holds afterwards (R119) -/

/-- Unless the instruction faulted, the value its destination register holds has the property. -/
def ResultMeets (P : Word → Prop) (r : Fin 8) (t : State) : Prop := t.execState ≠ .faulted → P t.regs[r]

section Results

variable {P : Word → Prop} {s : State} {a b c : Word} {r : Fin 8}

theorem ResultMeets.raise {cause : FaultCause} : ResultMeets P r (s.raise cause) := fun ok => absurd rfl ok

theorem ResultMeets.write {v : Word} {p : Nat} (hv : P v) : ResultMeets P r ((s.setReg r v).retire p) := fun _ =>
  (setReg_get_same s r v).symm ▸ hv

theorem ResultMeets.withRd {w : Word} {k : Word → State} (ok : ∀ v, ResultMeets P r (k v)) :
    ResultMeets P r (withRd w s k) :=
  withRd_rule (fun _ => .raise) fun v _ => ok v

theorem ResultMeets.of_exec_aluOp3 {i : Instr} {t : State} {f : Word → Word → Word} (ha : dst a = some r)
    (hf : ∀ vb vc, P (f vb vc)) (meaning : exec i s = .next (aluOp3 f a b c s)) (h : exec i s = .next t) :
    ResultMeets P r t := by
  rw [meaning, aluOp3, withDst_some ha] at h
  cases h
  exact .withRd fun vb => .withRd fun vc => .write (hf vb vc)

theorem ResultMeets.of_exec_mod {t : State} (ha : dst a = some r) (hmod : ∀ vb vc, P (aluMod vb vc))
    (h : exec (.mod a b c) s = .next t) : ResultMeets P r t := by
  rw [exec_mod, execMod, withDst_some ha] at h
  cases h
  refine .withRd fun vb => .withRd fun vc => ?_
  split_ifs
  · exact .raise
  · exact .write (hmod vb vc)

theorem ResultMeets.of_exec_not {t : State} (ha : dst a = some r) (hnot : ∀ vb, P (aluNot vb))
    (h : exec (.not a b) s = .next t) : ResultMeets P r t := by
  rw [exec_not, execNot, withDst_some ha] at h
  cases h
  exact .withRd fun vb => .write (hnot vb)

end Results

/-! ## The obligations -/

/-- Settles O17: both are three-operand forms, and the value they write is the exact result reduced. -/
theorem addAndMultReduceExactResult : Obligations.AddAndMultReduceExactResult := by
  intro s a b c
  constructor
  · obtain ⟨skipped, badB, badC, completed⟩ := exec_of_aluOp3 (exec_add a b c s)
    exact ⟨rfl, skipped, badB, badC, fun r vb vc ha hb hc =>
      ⟨aluAdd vb vc, reduce_toNat _, completed r vb vc ha hb hc⟩⟩
  · obtain ⟨skipped, badB, badC, completed⟩ := exec_of_aluOp3 (exec_mult a b c s)
    exact ⟨rfl, skipped, badB, badC, fun r vb vc ha hb hc =>
      ⟨aluMult vb vc, reduce_toNat _, completed r vb vc ha hb hc⟩⟩

/-- Settles O18: MOD ends in one of five ways, and the value it writes is the remainder reduced. -/
theorem modGivesReducedRemainder : Obligations.ModGivesReducedRemainder := by
  intro s a b c
  exact ⟨rfl, fun bad => exec_of_dst_eq_none rfl bad s, fun r => exec_mod_of_malformed_dividend,
    fun r vb => exec_mod_of_malformed_divisor, fun r vb => exec_mod_of_zero_divisor,
    fun r vb vc ha hb hc nonzero => ⟨aluMod vb vc, reduce_toNat _, exec_mod_of_ne_zero ha hb hc nonzero⟩⟩

/-- Settles O19: both are three-operand forms, and to reduce a Word is to mask its bits 14:0. -/
theorem andAndOrKeepFifteenBits : Obligations.AndAndOrKeepFifteenBits := by
  intro s a b c
  constructor
  · obtain ⟨skipped, badB, badC, completed⟩ := exec_of_aluOp3 (exec_and a b c s)
    refine ⟨rfl, skipped, badB, badC, fun r vb vc ha hb hc => ?_⟩
    rw [← reduce_toNat_eq_and]
    exact completed r vb vc ha hb hc
  · obtain ⟨skipped, badB, badC, completed⟩ := exec_of_aluOp3 (exec_or a b c s)
    refine ⟨rfl, skipped, badB, badC, fun r vb vc ha hb hc => ?_⟩
    rw [← reduce_toNat_eq_and]
    exact completed r vb vc ha hb hc

/-- Settles O20: NOT ends in one of three ways, and the value it writes is the complement as a number. -/
theorem notComplementsFifteenBits : Obligations.NotComplementsFifteenBits := by
  intro s a b
  exact ⟨rfl, fun bad => exec_of_dst_eq_none rfl bad s, fun r => exec_not_of_malformed_source,
    fun r vb ha hb => ⟨aluNot vb, aluNot_toNat vb, exec_not_of_resolved ha hb⟩⟩

/-- Settles O21: with a valid destination each of the eight faults or writes a value of its function, and every such
value is in range. -/
theorem arithmeticResultsAreReduced : Obligations.ArithmeticResultsAreReduced := by
  intro s t a b c r ha ok
  have reduced {n : Word → Word → Nat} (vb vc : Word) : IsReduced (reduce (n vb vc)) := isReduced_reduce _
  constructor
  · intro h
    suffices meets : ResultMeets IsReduced r t from meets ok
    obtain h | h | h | h | h | h := h
    · exact .of_exec_aluOp3 ha reduced (exec_add a b c s) h
    · exact .of_exec_aluOp3 ha reduced (exec_mult a b c s) h
    · exact .of_exec_mod ha reduced h
    · exact .of_exec_aluOp3 ha reduced (exec_and a b c s) h
    · exact .of_exec_aluOp3 ha reduced (exec_or a b c s) h
    · exact .of_exec_not ha isReduced_aluNot h
  · intro h
    suffices meets : ResultMeets IsTruthValue r t from meets ok
    obtain h | h := h
    · exact .of_exec_aluOp3 ha isTruthValue_aluEq (exec_eq a b c s) h
    · exact .of_exec_aluOp3 ha isTruthValue_aluGt (exec_gt a b c s) h

/-- Settles O15: EQ is the three-operand form of `aluEq`. -/
theorem eqWritesOneOrZero : Obligations.EqWritesOneOrZero := fun s a b c =>
  ⟨rfl, exec_of_aluOp3 (exec_eq a b c s)⟩

/-- Settles O16: GT is the three-operand form of `aluGt`. -/
theorem gtComparesUnsigned : Obligations.GtComparesUnsigned := fun s a b c =>
  ⟨rfl, exec_of_aluOp3 (exec_gt a b c s)⟩

end Sys2Proof.Machine
end

section
/-! PROOFS. The control flow family (spec/43_control_flow.md): JMP, JT, JF, CALL and RET, one lemma for each way that
their tests let one of them end, and the return from a completed CALL. -/

namespace Sys2Proof.Machine

section Endings

variable {s : State} {a b : Word}

/-! ## JMP (R130) -/

theorem exec_jmp_of_malformed_target (ha : rd s a = none) :
    exec (.jmp a) s = .next (s.raise (.malformedOperand a)) := by
  rw [exec_jmp, execJmp, withRd_none ha]

theorem exec_jmp_of_resolved {t : Word} (ha : rd s a = some t) : exec (.jmp a) s = .next (jumpTo t s) := by
  rw [exec_jmp, execJmp, withRd_some ha]

/-! ## JT and JF (R131, R132) -/

/-- An instruction that resolves two sources and then acts on them faults at the first malformed one, whatever the
action would be (R96, D16). -/
theorem exec_of_two_sources {i : Instr} {k : Word → Word → State}
    (meaning : exec i s = .next (withRd a s fun va => withRd b s fun vb => k va vb)) :
    (rd s a = none → exec i s = .next (s.raise (.malformedOperand a))) ∧
    (∀ va, rd s a = some va → rd s b = none → exec i s = .next (s.raise (.malformedOperand b))) ∧
    (∀ va vb, rd s a = some va → rd s b = some vb → exec i s = .next (k va vb)) := by
  rw [meaning]
  refine ⟨fun ha => ?_, fun va ha hb => ?_, fun va vb ha hb => ?_⟩
  · rw [withRd_none ha]
  · rw [withRd_some ha, withRd_none hb]
  · rw [withRd_some ha, withRd_some hb]

/-! ## CALL (R133): the tests in the rule's order -/

theorem exec_call_of_malformed_target (ha : rd s a = none) :
    exec (.call a) s = .next (s.raise (.malformedOperand a)) := by
  rw [exec_call, execCall, withRd_none ha]

section ResolvedTarget

variable {t : Word} (ha : rd s a = some t)

include ha

theorem exec_call_of_memSize_le (outside : s.memSize ≤ t.toNat) :
    exec (.call a) s = .next (s.raise (.pcOutOfRange t)) := by
  rw [exec_call, execCall, withRd_some ha, if_pos outside]

theorem exec_call_of_return_overflow (inside : t.toNat < s.memSize) (overflow : 65535 < s.pc + 2) :
    exec (.call a) s = .next (s.raise (.returnAddressOverflow (s.pc + 2))) := by
  rw [exec_call, execCall, withRd_some ha, if_neg (Nat.not_le.mpr inside), if_pos overflow]

theorem exec_call_of_stack_full (inside : t.toNat < s.memSize) (fits : s.pc + 2 ≤ 65535)
    (full : s.stackCap = some s.stack.length) :
    exec (.call a) s = .next (s.raise (.stackOverflow s.stack.length)) := by
  rw [exec_call, execCall, withRd_some ha, if_neg (Nat.not_le.mpr inside), if_neg (Nat.not_lt.mpr fits),
    if_pos ((stackFull_eq_true s).mpr full), State.depth]

theorem exec_call_of_room (inside : t.toNat < s.memSize) (fits : s.pc + 2 ≤ 65535)
    (room : s.stackCap ≠ some s.stack.length) :
    exec (.call a) s = .next ((s.pushWord (BitVec.ofNat 16 (s.pc + 2))).retire t.toNat) := by
  rw [exec_call, execCall, withRd_some ha, if_neg (Nat.not_le.mpr inside), if_neg (Nat.not_lt.mpr fits),
    if_neg (mt (stackFull_eq_true s).mp room)]

end ResolvedTarget

/-- The inversion of CALL: a fault, or every test passed and the return address pushed. -/
theorem exec_call_cases {u : State} (h : exec (.call a) s = .next u) :
    (∃ cause, u = s.raise cause) ∨
    ∃ t, rd s a = some t ∧ t.toNat < s.memSize ∧ s.pc + 2 ≤ 65535 ∧ s.stackCap ≠ some s.stack.length ∧
      u = (s.pushWord (BitVec.ofNat 16 (s.pc + 2))).retire t.toNat := by
  have answer {v : State} (hv : exec (.call a) s = .next v) : u = v := Host.Outcome.next.inj (h.symm.trans hv)
  cases ha : rd s a with
  | none => exact .inl ⟨_, answer (exec_call_of_malformed_target ha)⟩
  | some t =>
    by_cases inside : t.toNat < s.memSize
    case neg => exact .inl ⟨_, answer (exec_call_of_memSize_le ha (Nat.not_lt.mp inside))⟩
    by_cases fits : s.pc + 2 ≤ 65535
    case neg => exact .inl ⟨_, answer (exec_call_of_return_overflow ha inside (Nat.not_le.mp fits))⟩
    by_cases full : s.stackCap = some s.stack.length
    case pos => exact .inl ⟨_, answer (exec_call_of_stack_full ha inside fits full)⟩
    exact .inr ⟨t, rfl, inside, fits, full, answer (exec_call_of_room ha inside fits full)⟩

/-! ## RET (R134) -/

theorem exec_ret_of_empty (empty : s.stack = []) : exec .ret s = .next (s.halt .retEmptyStack) := by
  rw [exec_ret, execRet, State.top_of_nil empty]

section NonemptyStack

variable {rest : List Word} {t : Word} (h : s.stack = rest ++ [t])

include h

theorem exec_ret_of_memSize_le (outside : s.memSize ≤ t.toNat) :
    exec .ret s = .next (s.raise (.pcOutOfRange t)) := by
  rw [exec_ret, execRet, State.top_of_concat h]
  exact congrArg _ (if_neg (Nat.not_lt.mpr outside))

theorem exec_ret_of_lt_memSize (inside : t.toNat < s.memSize) :
    exec .ret s = .next (({ s with stack := rest } : State).retire t.toNat) := by
  rw [exec_ret, execRet, State.top_of_concat h, ← State.dropTop_of_concat h]
  exact congrArg _ (if_pos inside)

end NonemptyStack

end Endings

/-! ## The return address (R133) -/

/-- A return address that passed CALL's test is `pc + 2` exactly, not a remainder (D11). -/
theorem returnAddress_toNat {s : State} (fits : s.pc + 2 ≤ 65535) :
    (BitVec.ofNat 16 (s.pc + 2)).toNat = s.pc + 2 := by
  rw [BitVec.toNat_ofNat]
  omega

/-! ## The obligations -/

/-- Settles O24: CALL makes its tests one after the other, and the return address that passes them fits in a Word. -/
theorem callPushesReturnAddress : Obligations.CallPushesReturnAddress := by
  intro s a
  exact ⟨rfl, exec_call_of_malformed_target, fun t => exec_call_of_memSize_le,
    fun t => exec_call_of_return_overflow, fun t => exec_call_of_stack_full, fun t ha inside fits room =>
      ⟨_, returnAddress_toNat fits, exec_call_of_room ha inside fits room⟩⟩

/-- Settles O26: a CALL that did not fault left its return address on top of the stack, and RET takes it from there. -/
theorem retReturnsPastItsCall : Obligations.RetReturnsPastItsCall := by
  intro s t u a hcall completed inside hstack hsize
  obtain ⟨cause, rfl⟩ | ⟨target, -, -, fits, -, rfl⟩ := exec_call_cases hcall
  · exact absurd rfl completed
  · have address := returnAddress_toNat fits
    have ret := exec_ret_of_lt_memSize hstack (by rwa [address, hsize])
    rwa [address] at ret

/-- Settles O22: a resolved target is jumped to, and the jump tests its range. -/
theorem jmpGoesToAbsoluteTarget : Obligations.JmpGoesToAbsoluteTarget := by
  intro s a
  refine ⟨rfl, exec_jmp_of_malformed_target, fun t ha outside => ?_, fun t ha inside => ?_⟩
  · rw [exec_jmp_of_resolved ha, jumpTo_out outside]
  · rw [exec_jmp_of_resolved ha, jumpTo_in inside, State.retire]

/-- Settles O23: both resolve two sources and then choose between the jump, which tests its range, and moving on. -/
theorem conditionalJumpsTestTheirCondition : Obligations.ConditionalJumpsTestTheirCondition := by
  intro s a b
  constructor
  · obtain ⟨badA, badB, resolved⟩ := exec_of_two_sources (exec_jt a b s)
    refine ⟨rfl, badA, badB, fun t ha hb => ?_, fun va t ha taken hb outside => ?_,
      fun va t ha taken hb inside => ?_⟩
    · rw [resolved 0 t ha hb, if_neg (not_not.mpr rfl), State.retire]
    · rw [resolved va t ha hb, if_pos taken, jumpTo_out outside]
    · rw [resolved va t ha hb, if_pos taken, jumpTo_in inside, State.retire]
  · obtain ⟨badA, badB, resolved⟩ := exec_of_two_sources (exec_jf a b s)
    refine ⟨rfl, badA, badB, fun va t ha untaken hb => ?_, fun t ha hb outside => ?_, fun t ha hb inside => ?_⟩
    · rw [resolved va t ha hb, if_neg untaken, State.retire]
    · rw [resolved 0 t ha hb, if_pos rfl, jumpTo_out outside]
    · rw [resolved 0 t ha hb, if_pos rfl, jumpTo_in inside, State.retire]

/-- Settles O25: the stack is empty or has a last entry, and only a last entry in memory leaves it. -/
theorem retPopsThePc : Obligations.RetPopsThePc := by
  intro s
  exact ⟨rfl, exec_ret_of_empty, fun rest t => exec_ret_of_memSize_le, fun rest t => exec_ret_of_lt_memSize⟩

end Sys2Proof.Machine
end

section
/-! PROOFS. The system and input/output family (spec/44_system_io.md): OUT and IN, one lemma for each way that the tests
of R96 let one of them end, and the attempts of an engine that waits for input. -/

namespace Sys2Proof.Machine

section Endings

variable {s : State} {a : Word}

/-! ## OUT (R142) -/

theorem exec_out_of_malformed_source (ha : rd s a = none) :
    exec (.out a) s = .next (s.raise (.malformedOperand a)) := by
  rw [exec_out, execOut, withRd_none ha]

theorem exec_out_of_too_large {v : Word} (ha : rd s a = some v) (large : 255 < v.toNat) :
    exec (.out a) s = .next (s.raise (.ioValueError v)) := by
  rw [exec_out, execOut, withRd_some ha, if_pos large]

theorem exec_out_of_byte {v : Word} (ha : rd s a = some v) (fits : v.toNat ≤ 255) :
    exec (.out a) s = .next ((s.emit (v.setWidth 8)).retire (s.pc + 2)) := by
  rw [exec_out, execOut, withRd_some ha, if_neg (Nat.not_lt.mpr fits)]

/-- A value that passed OUT's test is emitted whole, not cut to its low byte. -/
theorem emittedByte_toNat {v : Word} (fits : v.toNat ≤ 255) : (v.setWidth 8).toNat = v.toNat := by
  rw [BitVec.toNat_setWidth]
  omega

/-! ## IN (R143, R144) -/

theorem exec_in_of_empty {r : Fin 8} (ha : dst a = some r) (empty : s.inq = []) : exec (.in_ a) s = .next s := by
  rw [exec_in, execIn, withDst_some ha, empty]

theorem exec_in_of_cons {r : Fin 8} {byte : Byte} {rest : List Byte} (ha : dst a = some r)
    (queue : s.inq = byte :: rest) :
    exec (.in_ a) s =
      .next ((({ s with inq := rest } : State).setReg r (byte.setWidth 16)).retire (s.pc + 2)) := by
  have drop : s.dropInput = { s with inq := rest } := by rw [State.dropInput, queue, List.tail_cons]
  rw [exec_in, execIn, withDst_some ha, queue, drop]

/-- A byte of the queue reaches the register zero-extended, so as the same number. -/
theorem consumedWord_toNat (byte : Byte) : (byte.setWidth 16).toNat = byte.toNat :=
  BitVec.toNat_setWidth_of_le (by decide)

end Endings

/-! ## The attempts of a waiting engine (R43, R144) -/

/-- What waiting for input says (R43). -/
theorem waitingForInput_iff {s : State} :
    s.waitingForInput = true ↔
      s.execState = .running ∧ s.inq = [] ∧ ∃ a r, s.decodeAt s.pc = .instr (.in_ a) ∧ dst a = some r := by
  simp only [State.waitingForInput, Bool.and_eq_true, decide_eq_true_eq, List.isEmpty_iff, and_assoc]
  refine and_congr_right fun _ => and_congr_right fun _ => ?_
  split
  case h_1 a hd => simp [hd, Option.isSome_iff_exists]
  case h_2 i notIn hd => simpa [hd] using fun a hi => absurd hi (notIn a)
  case h_3 hd | h_4 hd => simp [hd]

/-- Line 4 of R151 changes nothing in an engine that runs. -/
theorem State.started_of_running {s : State} (running : s.execState = .running) : s.started = s := by
  rw [State.started, ← running]

/-- A running engine that reaches an instruction executes it in the present state. -/
theorem step_of_running {s : State} {i : Instr} (running : s.execState = .running) (ready : s.Ready)
    (hd : s.decodeAt s.pc = .instr i) : step s = exec i s := by
  rw [step_of_ready ready, State.started_of_running running, fetchAndExecute_instr hd]

/-- A stop request ends the run of an engine that is not terminal, whatever else is requested (R151 line 2, R155). -/
theorem step_of_stop {s : State} (live : s.execState.terminal = false) (stop : s.stop = true) :
    step s = .next { s with execState := .stopped } := by
  rw [step, stepAttempt, if_neg (Bool.eq_false_iff.mp live), if_pos stop]

/-- A pause request suspends an engine that is not terminal and not asked to stop (R151 line 3, R154). -/
theorem step_of_pause {s : State} (live : s.execState.terminal = false) (noStop : s.stop = false)
    (pause : s.pause = true) : step s = .next { s with execState := .paused } := by
  rw [step, stepAttempt, if_neg (Bool.eq_false_iff.mp live), if_neg (Bool.eq_false_iff.mp noStop), if_pos pause]

/-- An attempt that leaves the engine waiting for input has stalled (R15, R144). -/
theorem instrOutcome_stalled {i : Instr} {s : State} (waiting : s.waitingForInput = true) :
    instrOutcome i s s = .stalled := by
  obtain ⟨running, -⟩ := waitingForInput_iff.mp waiting
  simp [instrOutcome, running, waiting]

/-! ## The obligations -/

/-- Settles O31: a waiting engine runs and has a valid IN at its pc, so each attempt is that IN on the queue it finds,
unless a request ends the attempt first. -/
theorem stalledInWaitsForTheHost : Obligations.StalledInWaitsForTheHost := by
  intro s waiting noStop noPause noBreak
  obtain ⟨running, empty, a, r, hd, ha⟩ := waitingForInput_iff.mp waiting
  have live : s.execState.terminal = false := by rw [running, ExecState.terminal]
  have ready : s.Ready := ⟨live, noStop, noPause, noBreak⟩
  have stall : exec (.in_ a) s = .next s := exec_in_of_empty ha empty
  refine ⟨(step_of_running running ready hd).trans stall, ?_, step_of_stop live rfl, step_of_pause live noStop rfl,
    fun byte text => ⟨a, r, byte.setWidth 16, hd, ha, consumedWord_toNat byte, ?_⟩⟩
  · have started : s.started = s := State.started_of_running running
    rw [attemptOutcome_executed ready hd (started.symm ▸ stall), started, instrOutcome_stalled waiting]
  · have queue : (hostInsertInput (byte :: text) s).inq = byte :: text := by
      rw [hostInsertInput_inq, empty, List.nil_append]
    have hd' : (hostInsertInput (byte :: text) s).decodeAt s.pc = .instr (.in_ a) :=
      (State.decodeAt_congr rfl rfl s.pc).trans hd
    have executed : step (hostInsertInput (byte :: text) s) = exec (.in_ a) (hostInsertInput (byte :: text) s) :=
      step_of_running running ⟨live, noStop, noPause, noBreak⟩ hd'
    exact executed.trans (exec_in_of_cons ha queue)

/-- Settles O27: HALT is the benign halt. -/
theorem haltStopsWithNoSideEffect : Obligations.HaltStopsWithNoSideEffect := fun s =>
  ⟨rfl, by rw [exec_halt, execHalt, State.halt]⟩

/-- Settles O28: NOOP only retires. -/
theorem noopAdvancesThePc : Obligations.NoopAdvancesThePc := fun s =>
  ⟨rfl, by rw [exec_noop, execNoop, State.retire]⟩

/-- Settles O29: the source is resolved, then its value tested, and a value that passes is one byte. -/
theorem outEmitsOneByte : Obligations.OutEmitsOneByte := by
  intro s a
  exact ⟨rfl, exec_out_of_malformed_source, fun v => exec_out_of_too_large,
    fun v ha fits => ⟨_, emittedByte_toNat fits, exec_out_of_byte ha fits⟩⟩

/-- Settles O30: the destination is tested first, then the queue, whose head byte IN moves to the register. -/
theorem inConsumesOneByte : Obligations.InConsumesOneByte := by
  intro s a
  exact ⟨rfl, fun bad => exec_of_dst_eq_none rfl bad s, fun r => exec_in_of_empty,
    fun r byte rest ha queue => ⟨_, consumedWord_toNat byte, exec_in_of_cons ha queue⟩⟩

end Sys2Proof.Machine
end

section
/-! PROOFS. The engine cycle family (spec/45_engine_cycle_and_control.md): the tests of a step attempt in their order, the
transitions of `STATE`, the `BPSKIP` latch, and the host's stop, pause, breakpoint and input operations. -/

namespace Sys2Proof.Machine

/-! ## The attempts of R151, one rule per line -/

/-- Line 1: a terminal engine does nothing. -/
theorem step_of_terminal {s : State} (terminal : s.execState.terminal = true) : step s = .next s := by
  rw [step, stepAttempt, if_pos terminal]

/-- The record of a breakpoint is taken from the program's data, which line 4 of R151 leaves alone. -/
theorem State.started_breakpointHit (s : State) :
    s.started.breakpointHit =
      { s with
        diag := s.diag ++ [s.record .breakpoint]
        bpSkip := true
        pause := true
        pauseCause := some .breakpoint
        execState := .paused } := by
  have sameRecord : s.started.record .breakpoint = s.record .breakpoint := State.record_congr rfl rfl rfl rfl rfl _
  rw [← sameRecord]
  rfl

/-- Line 5: a breakpoint at the pc that is not yet reported suspends the engine before decode. -/
theorem step_of_breakpoint {s : State} (live : s.execState.terminal = false) (noStop : s.stop = false)
    (noPause : s.pause = false) (atBreak : s.pc ∈ s.bp) (unreported : s.bpSkip = false) :
    step s = .next s.started.breakpointHit := by
  have fires : s.started.breakpointFires = true := breakpointFires_iff.mpr ⟨atBreak, unreported⟩
  rw [step, stepAttempt, if_neg (Bool.eq_false_iff.mp live), if_neg (Bool.eq_false_iff.mp noStop),
    if_neg (Bool.eq_false_iff.mp noPause), if_pos fires]

/-- Line 6: an attempt that finds the pc at the end of memory halts. -/
theorem step_of_endOfMemory {s : State} (ready : s.Ready) (atEnd : s.pc = s.memSize) :
    step s = .next (s.started.halt .endOfMemory) :=
  (step_of_ready ready).trans (fetchAndExecute_end (s := s.started) atEnd)

/-- Line 8: an attempt that decodes an instruction is its execution by the running engine. -/
theorem step_of_instr {s : State} {i : Instr} (ready : s.Ready) (hd : s.decodeAt s.pc = .instr i) :
    step s = exec i s.started :=
  (step_of_ready ready).trans (fetchAndExecute_instr (s := s.started) ((decodeAt_started s s.pc).trans hd))

/-! ## What the endings of an instruction do to `BPSKIP`, `STATE` and `STOP` -/

/-- Line 9: every ending clears `BPSKIP`, but for the stall, which is no change at all (R144, R159). -/
theorem Ending.bpSkip_cleared_or_stalled {i : Instr} {s t : State} (e : Ending i s t) :
    t.bpSkip = false ∨ (t = s ∧ s.inq = [] ∧ ∃ a r, i = .in_ a ∧ dst a = some r) := by
  cases e with
  | stalled a r who dest empty => exact .inr ⟨rfl, empty, a, r, who, dest⟩
  | raised | skipped | halted | completed => exact .inl rfl

/-- An instruction leaves `STATE` as it is, or is a HALT or a RET on an empty stack that halts, or faults. -/
theorem Ending.execState_cases {i : Instr} {s t : State} (e : Ending i s t) :
    t.execState = s.execState ∨
    (t.execState = .halted ∧ (i = .halt ∨ (i = .ret ∧ s.stack = []))) ∨
    (t.execState = .faulted ∧ ∃ cause, t.faultCause = some cause) := by
  cases e with
  | raised cause => exact .inr (.inr ⟨rfl, cause, rfl⟩)
  | halted cause why =>
    rcases why with ⟨who, -⟩ | ⟨who, empty, -⟩
    · exact .inr (.inl ⟨rfl, .inl who⟩)
    · exact .inr (.inl ⟨rfl, .inr ⟨who, empty⟩⟩)
  | skipped | stalled => exact .inl rfl
  | completed u p effect target =>
    obtain ⟨-, -, -, -, hstate, -⟩ := effect.frame
    exact .inl hstate

theorem Ending.stop_eq {i : Instr} {s t : State} (e : Ending i s t) : t.stop = s.stop := by
  cases e with
  | raised | skipped | halted | stalled => rfl
  | completed u p effect target =>
    obtain ⟨-, -, -, -, -, -, -, hstop, -⟩ := effect.frame
    exact hstop

/-! ## What an attempt does to `STATE` and `STOP` (R155, R162) -/

/-- The rows of R162 that start in a state which is not terminal and has no request raised. -/
theorem Attempt.execState_of_unrequested {s t : State} (h : Attempt s t) (live : s.execState.terminal = false)
    (noStop : s.stop = false) (noPause : s.pause = false) :
    t.execState = .running ∨
    (t.execState = .paused ∧ s.pc ∈ s.bp ∧ s.bpSkip = false) ∨
    (t.execState = .halted ∧ (s.pc = s.memSize ∨ s.decodeAt s.pc = .instr .halt ∨
      (s.decodeAt s.pc = .instr .ret ∧ s.stack = []))) ∨
    (t.execState = .faulted ∧ ∃ cause, t.faultCause = some cause) := by
  cases h with
  | terminal h => exact absurd h (Bool.eq_false_iff.mp live)
  | stopped ht h => exact absurd h (Bool.eq_false_iff.mp noStop)
  | paused ht hs h => exact absurd h (Bool.eq_false_iff.mp noPause)
  | breakpoint ht hs hp h hk => exact .inr (.inl ⟨rfl, h, hk⟩)
  | endOfMemory ready h => exact .inr (.inr (.inl ⟨rfl, .inl h⟩))
  | decodeFault ready cause h => exact .inr (.inr (.inr ⟨rfl, cause, rfl⟩))
  | executed ready i t hd he ending =>
    rcases ending.execState_cases with same | ⟨halted, rfl | ⟨rfl, empty⟩⟩ | faulted
    · exact .inl same
    · exact .inr (.inr (.inl ⟨halted, .inr (.inl hd)⟩))
    · exact .inr (.inr (.inl ⟨halted, .inr (.inr ⟨hd, empty⟩)⟩))
    · exact .inr (.inr (.inr faulted))

theorem Attempt.stop_eq {s t : State} (h : Attempt s t) : t.stop = s.stop := by
  cases h with
  | terminal | stopped | paused | breakpoint | endOfMemory | decodeFault => rfl
  | executed ready i t hd he ending =>
    have running : t.stop = s.started.stop := ending.stop_eq
    exact running

/-! ## What the host's operations do (R158, R162, R163) -/

/-- `reset()` alone writes `STATE`. -/
theorem applyHostOp_execState (op : HostOp) (s : State) :
    (applyHostOp op s).execState = if op = .reset then .idle else s.execState := by
  cases op <;> rfl

/-- No operation but `reset()` takes back a stop request. -/
theorem applyHostOp_stop_of_ne_reset {op : HostOp} {s : State} (notReset : op ≠ .reset) (stop : s.stop = true) :
    (applyHostOp op s).stop = true := by
  cases op with
  | reset => exact absurd rfl notReset
  | stop => rfl
  | pause | unpause | addBreakpoint | insertInput => exact stop

/-- An engine that `new` constructs has not run (R162, R212). -/
theorem hostNew_execState {bytes : List Byte} {n : Nat} {cap : Option Nat} {t : State}
    (h : hostNew bytes n cap = .next t) : t.execState = .idle := by
  unfold hostNew at h
  split_ifs at h
  split at h <;> cases h
  rfl

theorem insertAddress_idem (addr : Nat) (l : List Nat) :
    insertAddress addr (insertAddress addr l) = insertAddress addr l := by
  induction l with
  | nil => simp [insertAddress]
  | cons a l ih =>
    by_cases below : addr < a
    · simp [insertAddress, below]
    by_cases same : addr = a
    · simp [insertAddress, same]
    · simp [insertAddress, below, same, ih]

/-! ## The obligations -/

/-- Settles O40: of an instruction's endings the stall alone does not clear `BPSKIP`. -/
theorem bpskipClearedUnlessStalled : Obligations.BpskipClearedUnlessStalled := fun _ _ _ h =>
  (exec_cases h).bpSkip_cleared_or_stalled

/-- Settles O41: the first three tests of R151 fix the answer, what is left is one of its other attempts, and host
operations are inspected one by one. -/
theorem statesChangeOnlyAsTheDiagramSays : Obligations.StatesChangeOnlyAsTheDiagramSays := by
  refine ⟨fun s t h => ?_, fun s op => applyHostOp_execState op s, fun bytes n cap t => hostNew_execState⟩
  have answer {u : State} (hu : step s = .next u) : t = u := Host.Outcome.next.inj (h.symm.trans hu)
  refine ⟨fun terminal => answer (step_of_terminal terminal), fun live stop => ?_, fun live noStop pause => ?_,
    (step_cases h).execState_of_unrequested⟩
  · rw [answer (step_of_stop live stop)]
  · rw [answer (step_of_pause live noStop pause)]

/-- Settles O53: the suspended engine has `PAUSE` set, which holds it, and `BPSKIP` set, which lets it pass the breakpoint
once `unpause()` has cleared `PAUSE`. -/
theorem breakpointFiresOncePerArrival : Obligations.BreakpointFiresOncePerArrival := by
  intro s i live noStop noPause atBreak unreported hd
  refine ⟨_, (step_of_breakpoint live noStop noPause atBreak unreported).trans
    (congrArg _ s.started_breakpointHit), rfl, rfl, rfl, step_of_pause rfl noStop rfl, ?_⟩
  refine step_of_instr ⟨rfl, noStop, rfl, nofun⟩ ?_
  exact (State.decodeAt_congr rfl rfl s.pc).trans hd

/-- Settles O54: `BP` is written by `insertAddress` alone, `INQ` by an append. -/
theorem breakpointAndInputInsertions : Obligations.BreakpointAndInputInsertions := by
  intro s addr text
  refine ⟨⟨insertAddress addr s.bp, rfl, fun x => mem_insertAddress, pairwise_insertAddress⟩, ?_, rfl⟩
  rw [hostAddBreakpoint, hostAddBreakpoint_bp, insertAddress_idem]
  rfl

/-- Settles O37: the hypotheses say that the attempt reaches line 8 of R151. -/
theorem stepRunsTheDecodedInstruction : Obligations.StepRunsTheDecodedInstruction :=
  fun _ _ live noStop noPause noBreak hd => step_of_instr ⟨live, noStop, noPause, noBreak⟩ hd

/-- Settles O38: one rule per line of R151. -/
theorem stepTestsInOrder : Obligations.StepTestsInOrder := by
  intro s
  refine ⟨step_of_terminal, step_of_stop, step_of_pause, fun live noStop noPause atBreak unreported => ?_,
    fun live noStop noPause noBreak => ?_⟩
  · rw [step_of_breakpoint live noStop noPause atBreak unreported, State.started_breakpointHit]
  · have ready : s.Ready := ⟨live, noStop, noPause, noBreak⟩
    exact ⟨step_of_endOfMemory ready, fun cause => step_of_decodeFault ready⟩

/-- Settles O51: the stop request is tested right after the terminal states, and no attempt writes `STOP`. -/
theorem stopEndsTheRunAtNextAttempt : Obligations.StopEndsTheRunAtNextAttempt := by
  intro s
  exact ⟨rfl, fun live => step_of_stop (s := hostStop s) live rfl,
    fun terminal => step_of_terminal (s := hostStop s) terminal,
    fun op => applyHostOp_stop_of_ne_reset, fun t h => (step_cases h).stop_eq⟩

/-- Settles O52: both operations write constants, and the pause request is tested after terminal states and stop. -/
theorem pauseAndUnpauseToggleTheFlag : Obligations.PauseAndUnpauseToggleTheFlag := by
  intro s
  exact ⟨rfl, rfl, rfl, rfl, fun live noStop => step_of_pause (s := hostPause s) live noStop rfl,
    fun terminal => ⟨step_of_terminal terminal, step_of_terminal terminal⟩⟩

end Sys2Proof.Machine
end

section
/-! PROOFS. The exceptions family (spec/60_exceptions.md): PUSH on a full stack, what taking a fatal fault writes and
records, the faulted engine, and the program's independence from what its view leaves out. -/

namespace Sys2Proof.Machine

/-! ## PUSH (R101, R190) -/

section Push

variable {s : State} {a v : Word}

theorem exec_push_of_malformed_source (ha : rd s a = none) :
    exec (.push a) s = .next (s.raise (.malformedOperand a)) := by
  rw [exec_push, execPush, withRd_none ha]

theorem exec_push_of_stack_full (ha : rd s a = some v) (full : s.stackCap = some s.stack.length) :
    exec (.push a) s = .next (s.raise (.stackOverflow s.stack.length)) := by
  rw [exec_push, execPush, withRd_some ha, if_pos ((stackFull_eq_true s).mpr full), State.depth]

theorem exec_push_of_room (ha : rd s a = some v) (room : s.stackCap ≠ some s.stack.length) :
    exec (.push a) s = .next ((s.pushWord v).retire (s.pc + 2)) := by
  rw [exec_push, execPush, withRd_some ha, if_neg (mt (stackFull_eq_true s).mp room)]

end Push

/-! ## The record of a fault (R38, R194) -/

/-- A record shows an instruction exactly when decoding at the pc gives it. -/
theorem State.record_instruction_eq_some {s : State} {kind : DiagKind} {i : Instr} :
    (s.record kind).instruction = some i ↔ s.decodeAt s.pc = .instr i := by
  simp only [State.record]
  split
  case h_1 j hd => simp [hd]
  case h_2 cause hd => simp [hd]
  case h_3 hd => simp [hd]

/-! ## Instructions that end the run (R192, R194) -/

/-- An instruction is the fault entry, the benign halt of HALT or of a RET on an empty stack, or it leaves `STATE` as it
is. -/
theorem Ending.raised_or_halted_or_execState_eq {i : Instr} {s t : State} (e : Ending i s t) :
    (∃ cause, t = s.raise cause) ∨
    (∃ cause, t = s.halt cause ∧
      ((i = .halt ∧ cause = .haltInstruction) ∨ (i = .ret ∧ s.stack = [] ∧ cause = .retEmptyStack))) ∨
    t.execState = s.execState := by
  cases e with
  | raised cause => exact .inl ⟨cause, rfl⟩
  | halted cause why => exact .inr (.inl ⟨cause, rfl, why⟩)
  | skipped | stalled => exact .inr (.inr rfl)
  | completed u p effect target =>
    obtain ⟨-, -, -, -, hstate, -⟩ := effect.frame
    exact .inr (.inr hstate)

/-! ## The faulted engine (R195) -/

/-- `t` is faulted as `s` was: the cause, the program's data and both streams are those of `s`. -/
structure State.StaysFaulted (s t : State) : Prop where
  execState : t.execState = .faulted
  faultCause : t.faultCause = s.faultCause
  pc : t.pc = s.pc
  regs : t.regs = s.regs
  mem : t.mem = s.mem
  stack : t.stack = s.stack
  diag : t.diag = s.diag
  output : t.output = s.output

theorem State.StaysFaulted.refl {s : State} (faulted : s.execState = .faulted) : s.StaysFaulted s :=
  ⟨faulted, rfl, rfl, rfl, rfl, rfl, rfl, rfl⟩

theorem State.StaysFaulted.trans {s u t : State} (h : s.StaysFaulted u) (h' : u.StaysFaulted t) : s.StaysFaulted t where
  execState := h'.execState
  faultCause := h'.faultCause.trans h.faultCause
  pc := h'.pc.trans h.pc
  regs := h'.regs.trans h.regs
  mem := h'.mem.trans h.mem
  stack := h'.stack.trans h.stack
  diag := h'.diag.trans h.diag
  output := h'.output.trans h.output

/-- An attempt does nothing to a faulted engine, and no host operation but `reset()` writes what a fault left. -/
theorem react_of_faulted {e : Event} {s : State} (faulted : s.execState = .faulted) (notReset : e ≠ .host .reset) :
    ∃ t, react e s = .next t ∧ s.StaysFaulted t := by
  cases e with
  | attempt =>
    have terminal : s.execState.terminal = true := by rw [faulted, ExecState.terminal]
    exact ⟨s, step_of_terminal terminal, .refl faulted⟩
  | host op =>
    refine ⟨applyHostOp op s, rfl, ?_⟩
    cases op with
    | reset => exact absurd rfl notReset
    | pause | unpause | stop | addBreakpoint | insertInput =>
      exact ⟨faulted, rfl, rfl, rfl, rfl, rfl, rfl, rfl⟩

theorem runEvents_of_faulted {es : List Event} {s : State} (faulted : s.execState = .faulted)
    (noReset : Event.host .reset ∉ es) : ∃ t, runEvents es s = .next t ∧ s.StaysFaulted t := by
  induction es generalizing s with
  | nil => exact ⟨s, rfl, .refl faulted⟩
  | cons e es ih =>
    obtain ⟨notFirst, notLater⟩ := not_or.mp (mt List.mem_cons.mpr noReset)
    obtain ⟨u, hu, first⟩ := react_of_faulted faulted (Ne.symm notFirst)
    obtain ⟨t, ht, rest⟩ := ih first.execState notLater
    exact ⟨t, runEvents_cons_eq_next.mpr ⟨u, hu, ht⟩, first.trans rest⟩

/-! ## The program's view decides an instruction's effect (R199, R202) -/

/-- Erasing from the state before what the program cannot see changes nothing that it can see in the state after. -/
def KeepsView (f : State → State) : Prop := ∀ s : State, (f s.programView).programView = (f s).programView

section KeepsView

variable {a w : Word} {n : Nat}

/-- The destination test looks at the operand word alone. -/
theorem KeepsView.withDst {k : Fin 8 → State → State} (ok : ∀ r, KeepsView (k r)) :
    KeepsView fun s => withDst a n s fun r => k r s := by
  intro s
  cases h : dst a with
  | none => simp only [withDst_none h]; rfl
  | some r => simp only [withDst_some h]; exact ok r s

/-- Resolution looks at the register file alone, which the view keeps. -/
theorem KeepsView.withRd {k : Word → State → State} (ok : ∀ v, KeepsView (k v)) :
    KeepsView fun s => withRd w s fun v => k v s := by
  intro s
  have sameValue : rd s.programView w = rd s w := rd_congr rfl w
  cases h : rd s w with
  | none => simp only [withRd_none h, withRd_none (sameValue.trans h)]; rfl
  | some v => simp only [withRd_some h, withRd_some (sameValue.trans h)]; exact ok v s

/-- A test that comes out alike on the view may choose between two ways to go on. -/
theorem KeepsView.ite {c : State → Prop} [∀ s, Decidable (c s)] {f g : State → State} (hf : KeepsView f)
    (hg : KeepsView g)
    (sameTest : ∀ s : State, c s.programView ↔ c s := by exact fun _ => .rfl) :
    KeepsView fun s => if c s then f s else g s := by
  intro s
  by_cases h : c s
  · simp only [if_pos h, if_pos ((sameTest s).mpr h)]; exact hf s
  · simp only [if_neg h, if_neg (mt (sameTest s).mp h)]; exact hg s

theorem KeepsView.aluOp3 (f : Word → Word → Word) (b c : Word) : KeepsView (aluOp3 f a b c) :=
  .withDst fun _ => .withRd fun _ => .withRd fun _ _ => rfl

theorem KeepsView.jumpTo (t : Word) : KeepsView (jumpTo t) := .ite (fun _ => rfl) fun _ => rfl

end KeepsView

/-- The view of memory is the whole of it, so the write in the view is the view of the write. -/
theorem State.programView_memWrite (s : State) (addr : Nat) (v : Word) :
    s.programView.memWrite addr v = (s.memWrite addr v).map State.programView := by
  rw [State.memWrite, State.memWrite, apply_ite (Option.map State.programView)]
  rfl

/-- Every instruction's next state is a function of the state before that the view decides. -/
theorem exec_keepsView (i : Instr) : ∃ f, (∀ s, exec i s = .next (f s)) ∧ KeepsView f := by
  cases i with
  | halt | noop => exact ⟨_, fun _ => rfl, fun _ => rfl⟩
  | set a b | not a b => exact ⟨_, fun _ => rfl, .withDst fun _ => .withRd fun _ _ => rfl⟩
  | eq a b c | gt a b c | add a b c | mult a b c | and a b c | or a b c => exact ⟨_, fun _ => rfl, .aluOp3 _ b c⟩
  | mod a b c =>
    exact ⟨_, fun _ => rfl, .withDst fun r => .withRd fun vb => .withRd fun vc => .ite (fun _ => rfl) fun _ => rfl⟩
  | push a | out a => exact ⟨_, fun _ => rfl, .withRd fun v => .ite (fun _ => rfl) fun _ => rfl⟩
  | jmp a => exact ⟨_, fun _ => rfl, .withRd .jumpTo⟩
  | jt a b | jf a b => exact ⟨_, fun _ => rfl, .withRd fun va => .withRd fun t => .ite (.jumpTo t) fun _ => rfl⟩
  | call a =>
    refine ⟨_, fun _ => rfl, .withRd fun t => ?_⟩
    exact .ite (fun _ => rfl) (.ite (fun _ => rfl) (.ite (fun _ => rfl) fun _ => rfl))
  | pop a =>
    refine ⟨_, fun _ => rfl, .withDst fun r s => ?_⟩
    have sameTop : s.programView.top = s.top := rfl
    cases h : s.top <;> simp only [sameTop, h] <;> rfl
  | ret =>
    refine ⟨_, fun _ => rfl, fun s => ?_⟩
    have sameTop : s.programView.top = s.top := rfl
    cases h : s.top with
    | none =>
      simp only [sameTop, h]
      rfl
    | some t =>
      have goTo : KeepsView fun s =>
          if t.toNat < s.memSize then s.dropTop.retire t.toNat else s.raise (.pcOutOfRange t) :=
        .ite (fun _ => rfl) fun _ => rfl
      simp only [sameTop, h]
      exact goTo s
  | rmem a b =>
    refine ⟨_, fun _ => rfl, .withDst fun r => .withRd fun addr s => ?_⟩
    have sameCell : s.programView.memRead addr.toNat = s.memRead addr.toNat := rfl
    cases h : s.memRead addr.toNat <;> simp only [sameCell, h] <;> rfl
  | wmem a b =>
    refine ⟨_, fun _ => rfl, .withRd fun addr => .withRd fun v s => ?_⟩
    cases h : s.memWrite addr.toNat v <;>
      simp only [s.programView_memWrite, h, Option.map_none, Option.map_some] <;> rfl
  | in_ a =>
    refine ⟨_, fun _ => rfl, .withDst fun r s => ?_⟩
    have sameQueue : s.programView.inq = s.inq := rfl
    cases h : s.inq <;> simp only [sameQueue, h] <;> rfl

/-- What of an outcome the program can see: the view of the next state, or the reason to stop. -/
def outcomeView : Host.Outcome State Fault Refusal → Host.Outcome State Fault Refusal
  | .next t => .next t.programView
  | .fault r => .fault r
  | .refused r => .refused r

theorem outcomeView_eq_next {o : Host.Outcome State Fault Refusal} {v : State} :
    outcomeView o = .next v ↔ ∃ t, o = .next t ∧ t.programView = v := by
  cases o <;> simp [outcomeView]

theorem outcomeView_exec_programView (i : Instr) (s : State) :
    outcomeView (exec i s.programView) = outcomeView (exec i s) := by
  obtain ⟨f, hf, keeps⟩ := exec_keepsView i
  rw [hf, hf]
  exact congrArg Host.Outcome.next (keeps s)

theorem outcomeView_exec {i : Instr} {s t : State} (view : s.programView = t.programView) :
    outcomeView (exec i s) = outcomeView (exec i t) := by
  rw [← outcomeView_exec_programView, view, outcomeView_exec_programView]

/-! ## Breakpoints only delay (R202) -/

/-- Lines 6 to 9 of R151 read the pc, the memory and its size, which the view keeps, before they execute. -/
theorem outcomeView_fetchAndExecute_programView (s : State) :
    outcomeView (fetchAndExecute s.programView) = outcomeView (fetchAndExecute s) := by
  have sameDecode : s.programView.decodeAt s.programView.pc = s.decodeAt s.pc := State.decodeAt_congr rfl rfl s.pc
  by_cases atEnd : s.pc = s.memSize
  · rw [fetchAndExecute_end atEnd, fetchAndExecute_end (s := s.programView) atEnd]
    rfl
  cases hd : s.decodeAt s.pc with
  | instr i =>
    rw [fetchAndExecute_instr hd, fetchAndExecute_instr (sameDecode.trans hd), outcomeView_exec_programView]
  | fault cause =>
    rw [fetchAndExecute_fault hd, fetchAndExecute_fault (sameDecode.trans hd)]
    rfl
  | noCell =>
    have beyond (u : State) (hend : u.pc ≠ u.memSize) (hu : u.decodeAt u.pc = .noCell) :
        fetchAndExecute u = .fault .pcBeyondMemory := by
      rw [fetchAndExecute, if_neg hend, hu]
    rw [beyond s atEnd hd, beyond s.programView atEnd (sameDecode.trans hd)]

/-- Two engines that both reach line 6 of R151 with the same view do the same to it. -/
theorem step_of_sameView {s t s' : State} (readyS : s.Ready) (readyT : t.Ready)
    (view : s.started.programView = t.started.programView) (h : step s = .next s') :
    ∃ t', step t = .next t' ∧ t'.programView = s'.programView := by
  refine outcomeView_eq_next.mp ?_
  calc outcomeView (step t)
    _ = outcomeView (fetchAndExecute t.started.programView) := by
      rw [step_of_ready readyT, outcomeView_fetchAndExecute_programView]
    _ = outcomeView (step s) := by rw [← view, step_of_ready readyS, outcomeView_fetchAndExecute_programView]
    _ = .next s'.programView := by rw [h, outcomeView]

/-! ## The obligations -/

/-- Settles O34: an instruction that leaves `STATE` as it is leaves the running engine running, and of the other two
endings each is told by the `STATE` it leaves. -/
theorem endingInstructionsChangeNothingElse : Obligations.EndingInstructionsChangeNothingElse := by
  intro i s t running h
  obtain ⟨cause, rfl⟩ | ⟨cause, rfl, why⟩ | same := (exec_cases h).raised_or_halted_or_execState_eq
  · exact ⟨fun _ => ⟨cause, rfl⟩, nofun⟩
  · exact ⟨nofun, fun _ => ⟨cause, rfl, why⟩⟩
  · rw [same, running]
    exact ⟨nofun, nofun⟩

/-- Settles O35: every event but `reset()` leaves the faulted engine as it is, so every interleaving without it does. -/
theorem faultedEngineStaysUntilReset : Obligations.FaultedEngineStaysUntilReset := by
  intro s faulted
  refine ⟨fun es noReset => ?_, rfl, rfl, rfl, rfl, rfl⟩
  obtain ⟨t, ht, stays⟩ := runEvents_of_faulted faulted noReset
  exact ⟨t, ht, stays.execState, stays.faultCause, stays.pc, stays.regs, stays.mem, stays.stack, stays.diag,
    stays.output⟩

/-- Settles O44: what the program sees of an instruction's outcome is decided by the view before. -/
theorem programViewDeterminesEffect : Obligations.ProgramViewDeterminesEffect := by
  intro i s t s' t' view hs ht
  have sameOutcome : outcomeView (exec i s) = outcomeView (exec i t) := outcomeView_exec view
  rw [hs, ht] at sameOutcome
  exact Host.Outcome.next.inj sameOutcome

/-- Settles O45: the engine without breakpoints reaches line 6 of R151, and so does the one with them, at once or, if
the breakpoint fires, after `unpause()`, with the same view. -/
theorem breakpointsOnlyDelay : Obligations.BreakpointsOnlyDelay := by
  intro s t' live noStop noPause h
  have ready : State.Ready { s with bp := [], bpSkip := false } := ⟨live, noStop, noPause, nofun⟩
  by_cases fires : s.pc ∈ s.bp ∧ s.bpSkip = false
  · obtain ⟨atBreak, unreported⟩ := fires
    have released : (hostUnpause s.started.breakpointHit).Ready := ⟨rfl, noStop, rfl, nofun⟩
    obtain ⟨s', hs', view⟩ := step_of_sameView ready released rfl h
    exact ⟨s', view, .inr ⟨_, step_of_breakpoint live noStop noPause atBreak unreported, rfl, hs'⟩⟩
  · obtain ⟨s', hs', view⟩ := step_of_sameView ready ⟨live, noStop, noPause, fires⟩ rfl h
    exact ⟨s', view, .inl hs'⟩

/-- Settles O12: the source is resolved, then the stack tested for room. -/
theorem pushAppendsToStack : Obligations.PushAppendsToStack := fun _ _ =>
  ⟨rfl, exec_push_of_malformed_source, fun _ => exec_push_of_stack_full, fun _ => exec_push_of_room⟩

/-- Settles O32: the fault entry appends the record of the present state, whose instruction is the decoder's. -/
theorem faultIsRecordedPrecisely : Obligations.FaultIsRecordedPrecisely := fun s cause =>
  ⟨s.record (.fatal cause), rfl, rfl, rfl, rfl, rfl, rfl, fun _ => State.record_instruction_eq_some⟩

end Sys2Proof.Machine
end

section
/-! PROOFS. The reset and hazards family (spec/70_reset_and_hazards.md): the blueprint that nothing after construction
writes, and the memory that construction builds from an image. -/

namespace Sys2Proof.Machine

/-! ## The blueprint is fixed at construction (R29, R211) -/

theorem Ending.blueprint_eq {i : Instr} {s t : State} (e : Ending i s t) : t.blueprint = s.blueprint := by
  cases e with
  | raised | skipped | halted | stalled => rfl
  | completed u p effect target =>
    obtain ⟨-, -, hblueprint, -⟩ := effect.frame
    exact hblueprint

theorem Attempt.blueprint_eq {s t : State} (h : Attempt s t) : t.blueprint = s.blueprint := by
  cases h with
  | terminal | stopped | paused | breakpoint | endOfMemory | decodeFault => rfl
  | executed ready i t hd he ending =>
    have running : t.blueprint = s.started.blueprint := ending.blueprint_eq
    exact running

theorem applyHostOp_blueprint (op : HostOp) (s : State) : (applyHostOp op s).blueprint = s.blueprint := by
  cases op <;> rfl

/-- No interleaving of step attempts and host operations, `reset()` among them, writes the blueprint. -/
theorem runEvents_blueprint {es : List Event} {s t : State} (h : runEvents es s = .next t) :
    t.blueprint = s.blueprint :=
  runEvents_rel (R := fun s t => t.blueprint = s.blueprint) (fun _ => rfl) (fun first rest => rest.trans first)
    (fun hstep => (step_cases hstep).blueprint_eq) applyHostOp_blueprint h

/-! ## Construction (R212, R213) -/

section New

variable {bytes : List Byte} {n : Nat} {cap : Option Nat}

theorem hostNew_of_size_out_of_range (size : n = 0 ∨ 65536 < n) :
    hostNew bytes n cap = .refused .memorySizeOutOfRange := if_pos size

theorem hostNew_of_wordsOfBytes_none (pos : 0 < n) (le : n ≤ 65536) (odd : wordsOfBytes bytes = none) :
    hostNew bytes n cap = .refused .oddProgramLength := by
  rw [hostNew, if_neg (not_or.mpr ⟨pos.ne', le.not_gt⟩), odd]

theorem hostNew_of_wordsOfBytes_some {ws : List Word} (pos : 0 < n) (le : n ≤ 65536)
    (hws : wordsOfBytes bytes = some ws) :
    hostNew bytes n cap = .next { State.reset with
      memSize := n, stackCap := cap, mem := imageMemory n ws, blueprint := imageMemory n ws } := by
  rw [hostNew, if_neg (not_or.mpr ⟨pos.ne', le.not_gt⟩), hws]

end New

/-- Inside the memory an image reads as its own words, and as the pad value 0 past them (R213). -/
theorem imageMemory_read {n k : Nat} (ws : List Word) (hk : k < n) : (imageMemory n ws).read k = ws.getD k 0 := by
  have listed : (imageMemory n ws).read (0 + k) = (ws.take n).getD k Memory.unlisted := Memory.read_ofWords _ 0 k
  rw [Nat.zero_add] at listed
  rw [listed, List.getD_eq_getElem?_getD, List.getElem?_take_of_lt hk, List.getD_eq_getElem?_getD, Memory.unlisted]

/-! ## The obligations -/

/-- Settles O57: `reset()` keeps the blueprint it copies, and so does every interleaving before it. -/
theorem resetIsHistoryFree : Obligations.ResetIsHistoryFree := by
  refine ⟨fun s => rfl, fun es s t h => ?_⟩
  have kept : (hostReset t).mem = (hostReset s).mem := runEvents_blueprint h
  exact ⟨kept, rfl, rfl, rfl, rfl⟩

/-- Settles O58: an even image is `wordsOfBytes`'s list of words, of which the memory reads word `k` at address `k` and 0
past the last. -/
theorem newBuildsTheImage : Obligations.NewBuildsTheImage := by
  intro bytes n cap
  refine ⟨hostNew_of_size_out_of_range,
    fun pos le odd => hostNew_of_wordsOfBytes_none pos le (wordsOfBytes_odd bytes odd), fun len pos le even => ?_⟩
  obtain ⟨ws, hws, length, littleEndian⟩ := wordsOfBytes_even bytes len even
  refine ⟨imageMemory n ws, hostNew_of_wordsOfBytes_some pos le hws, imageMemory_wf n ws, fun k hk => ?_⟩
  rw [imageMemory_read ws hk]
  split_ifs with inImage
  · exact littleEndian k inImage
  · have pad : ws.getD k 0 = 0 := List.getD_eq_default ws 0 (by omega)
    exact congrArg BitVec.toNat pad

/-- Settles O56: `hostReset` writes these constants and no other field; its eight registers are written out here. -/
theorem resetRestoresTheBlueprint : Obligations.ResetRestoresTheBlueprint := fun _ => rfl

end Sys2Proof.Machine
end

section
/-! PROOFS. The remaining statements: decoding and encoding agree and what decoding at an address reads
(spec/30_encoding.md), canonical memories (spec/20_memory.md), the state that no instruction reaches, and the invariant
of the machine's states (spec/10_state.md, spec/45_engine_cycle_and_control.md, spec/70_reset_and_hazards.md). -/

namespace Sys2Proof

/-! ## Decoding the words of an instruction (R70, R74, R75) -/

/-- Each opcode number selects its own row of the opcode map, which takes the operand words of that row's format. -/
theorem decodeWords_encode_append (i : Instr) (rest : List Word) : decodeWords (encode i ++ rest) = .instr i rest := by
  cases i <;> rfl

theorem decodeOperands1_of_short (f : Word → Instr) {ws : List Word} (short : ws.length < 1) :
    decodeOperands1 f ws = .error (.operandsMissing 1) := by
  rcases ws with _ | ⟨a, ws⟩
  · rfl
  · simp at short

theorem decodeOperands2_of_short (f : Word → Word → Instr) {ws : List Word} (short : ws.length < 2) :
    decodeOperands2 f ws = .error (.operandsMissing 2) := by
  rcases ws with _ | ⟨a, _ | ⟨b, ws⟩⟩
  · rfl
  · rfl
  · simp at short

theorem decodeOperands3_of_short (f : Word → Word → Word → Instr) {ws : List Word} (short : ws.length < 3) :
    decodeOperands3 f ws = .error (.operandsMissing 3) := by
  rcases ws with _ | ⟨a, _ | ⟨b, _ | ⟨c, ws⟩⟩⟩
  · rfl
  · rfl
  · rfl
  · simp at short
    omega

/-- An opcode word with too few words after it is cut off, and the error names how many its format needs. -/
theorem decodeWords_of_short {i : Instr} {ws : List Word} (short : ws.length < i.operands.length) :
    decodeWords (i.opcode :: ws) = .error (.operandsMissing i.operands.length) := by
  cases i with
  | halt | ret | noop => exact absurd short (Nat.not_lt_zero _)
  | push a | pop a | jmp a | call a | out a | in_ a => exact decodeOperands1_of_short _ short
  | set a b | jt a b | jf a b | not a b | rmem a b | wmem a b => exact decodeOperands2_of_short _ short
  | eq a b c | gt a b c | add a b c | mult a b c | mod a b c | and a b c | or a b c =>
    exact decodeOperands3_of_short _ short

namespace Machine

/-! ## Decoding at an address (R74, R189) -/

section DecodeAt

variable {s : State} {addr : Nat} {i : Instr} {ws : List Word}

/-- Up to four words that stand in the cells from an address on are the first words a fetch takes there. -/
theorem State.prefix_wordsAt (cells : ∀ k, k < ws.length → s.memRead (addr + k) = ws[k]?) (len : ws.length ≤ 4) :
    ws <+: s.wordsAt addr := by
  rw [List.prefix_iff_getElem?, State.wordsAt_eq]
  intro k hk
  obtain ⟨inMemory, word⟩ := State.memRead_eq_some.mp ((cells k hk).trans (List.getElem?_eq_getElem hk))
  rw [List.getElem?_map, List.getElem?_range (by omega), Option.map_some, word]

/-- Cells that hold an instruction's words are fetched as that instruction, whatever follows them. -/
theorem State.decodeAt_of_cells (cells : ∀ k, k < ws.length → s.memRead (addr + k) = ws[k]?) (len : ws.length ≤ 4)
    (enc : encode i <+: ws) : s.decodeAt addr = .instr i := by
  obtain ⟨rest, fetched⟩ := enc.trans (State.prefix_wordsAt cells len)
  exact State.decodeAt_eq_instr.mpr ⟨rest, fetched ▸ decodeWords_encode_append i rest⟩

/-- An opcode cell followed by its operand cells is fetched as the instruction. -/
theorem State.decodeAt_of_opcode_and_operands (opcode : s.memRead addr = some i.opcode)
    (operands : ∀ k, k < i.operands.length → s.memRead (addr + 1 + k) = i.operands[k]?) :
    s.decodeAt addr = .instr i := by
  have cells : ∀ k, k < (encode i).length → s.memRead (addr + k) = (encode i)[k]? := by
    intro k hk
    cases k with
    | zero => exact opcode
    | succ k =>
      rw [show addr + (k + 1) = addr + 1 + k by omega]
      exact operands k (Nat.lt_of_succ_lt_succ hk)
  exact State.decodeAt_of_cells cells (Nat.succ_le_succ i.operands_length_le) List.prefix_rfl

/-- An instruction whose last operand cell lies past the end of memory is cut off (D7). -/
theorem State.decodeAt_of_cutOff (opcode : s.memRead addr = some i.opcode)
    (cutOff : s.memSize - 1 < addr + i.operands.length) :
    s.decodeAt addr = .fault (.operandFetchOutOfRange (addr + i.operands.length)) := by
  obtain ⟨inMemory, -⟩ := State.memRead_eq_some.mp opcode
  obtain ⟨ws, fetched⟩ := State.wordsAt_of_memRead_eq_some opcode
  have length : ws.length + 1 = min 4 (s.memSize - addr) := by
    rw [← State.length_wordsAt, fetched, List.length_cons]
  have short : ws.length < i.operands.length := by omega
  rw [State.decodeAt, fetched, decodeWords_of_short short]

end DecodeAt

/-! ## Placing words in memory (log entry 3) -/

section StoreWords

variable {s : State} {addr : Nat} {w : Word} {ws : List Word}

@[simp] theorem State.storeWords_memSize : (s.storeWords addr ws).memSize = s.memSize := by
  obtain ⟨m, stored, -⟩ := s.storeWords_spec addr ws
  rw [stored]

theorem State.storeWords_wf (hwf : s.mem.wf = true) : (s.storeWords addr ws).mem.wf = true := by
  obtain ⟨m, stored, keeps⟩ := s.storeWords_spec addr ws
  rw [stored]
  exact keeps hwf

/-- Where its cell exists the first word is stored last, over the rest. -/
theorem State.memWrite_storeWords (inMemory : addr < s.memSize) :
    (s.storeWords (addr + 1) ws).memWrite addr w = some (s.storeWords addr (w :: ws)) := by
  have write : (s.storeWords (addr + 1) ws).memWrite addr w = some _ :=
    State.memWrite_eq_some.mpr ⟨by rwa [State.storeWords_memSize], rfl⟩
  rw [State.storeWords, write, Option.getD_some]

/-- Stored words whose cells all exist stand there in order. -/
theorem State.memRead_storeWords (hwf : s.mem.wf = true) (fits : addr + ws.length ≤ s.memSize) {k : Nat}
    (hk : k < ws.length) : (s.storeWords addr ws).memRead (addr + k) = ws[k]? := by
  induction ws generalizing addr k with
  | nil => exact absurd hk (Nat.not_lt_zero k)
  | cons w ws ih =>
    rw [List.length_cons] at fits hk
    rw [memRead_of_memWrite (State.storeWords_wf hwf) (State.memWrite_storeWords (by omega))]
    cases k with
    | zero => exact if_pos rfl
    | succ k =>
      rw [if_neg (by omega), List.getElem?_cons_succ, ← ih (addr := addr + 1) (by omega) (by omega)]
      congr 1
      omega

/-- Stored words whose cells all exist leave every other cell alone. -/
theorem State.read_storeWords_of_outside (fits : addr + ws.length ≤ s.memSize) {x : Nat}
    (outside : x < addr ∨ addr + ws.length ≤ x) : (s.storeWords addr ws).mem.read x = s.mem.read x := by
  induction ws generalizing addr with
  | nil => rfl
  | cons w ws ih =>
    rw [List.length_cons] at fits outside
    have write : (s.storeWords (addr + 1) ws).memWrite addr w = some (s.storeWords addr (w :: ws)) :=
      State.memWrite_storeWords (by omega)
    obtain ⟨-, stored⟩ := State.memWrite_eq_some.mp write
    rw [stored, Memory.read_write_of_ne _ _ (by omega), ih (by omega) (by omega)]

end StoreWords

theorem decodeTableWord_eq_some {nbits w : Nat} {i : Instr} :
    decodeTableWord nbits w = some i ↔ ∃ rest, decodeWords (tableWords nbits w) = .instr i rest := by
  unfold decodeTableWord
  cases decodeWords (tableWords nbits w) <;> simp

/-! ## Canonical memories (R50) -/

/-- In a canonical memory the first listed address is the least that does not read as unlisted. -/
theorem Memory.head_le_of_read_ne {lo a addr : Nat} {v : Word} {m : Memory} (hm : Memory.wfFrom lo ((a, v) :: m) = true)
    (h : Memory.read ((a, v) :: m) addr ≠ Memory.unlisted) : a ≤ addr := by
  obtain ⟨-, listed, rest⟩ := (Memory.wfFrom_cons ..).mp hm
  by_contra below
  exact h (Memory.read_of_wfFrom ((Memory.wfFrom_cons ..).mpr ⟨le_rfl, listed, rest⟩) (Nat.lt_of_not_le below))

/-- Canonical memories that read alike list the same cells: the first listed address of each does not read as unlisted
in the other, so it is the same, and the rests read alike. -/
theorem Memory.eq_of_read_eq {lo : Nat} {m m' : Memory} (hm : Memory.wfFrom lo m = true)
    (hm' : Memory.wfFrom lo m' = true) (alike : ∀ addr, m.read addr = m'.read addr) : m = m' := by
  induction m generalizing lo m' with
  | nil =>
    cases m' with
    | nil => rfl
    | cons c' m' =>
      obtain ⟨a', v'⟩ := c'
      obtain ⟨-, listed', -⟩ := (Memory.wfFrom_cons ..).mp hm'
      exact absurd (by simpa using (alike a').symm) listed'
  | cons c m ih =>
    obtain ⟨a, v⟩ := c
    obtain ⟨-, listed, rest⟩ := (Memory.wfFrom_cons ..).mp hm
    cases m' with
    | nil => exact absurd (by simpa using alike a) listed
    | cons c' m' =>
      obtain ⟨a', v'⟩ := c'
      obtain ⟨-, listed', rest'⟩ := (Memory.wfFrom_cons ..).mp hm'
      have le : a ≤ a' := Memory.head_le_of_read_ne hm (by rw [alike a']; simpa using listed')
      have ge : a' ≤ a := Memory.head_le_of_read_ne hm' (by rw [← alike a]; simpa using listed)
      obtain rfl : a = a' := Nat.le_antisymm le ge
      obtain rfl : v = v' := by simpa using alike a
      have restsAlike : ∀ x, Memory.read m x = Memory.read m' x := by
        intro x
        by_cases hx : a = x
        · rw [Memory.read_of_wfFrom rest (by omega), Memory.read_of_wfFrom rest' (by omega)]
        · simpa [hx] using alike x
      rw [ih rest rest' restsAlike]

/-! ## What no instruction reaches (R199) -/

/-- The two states hold the same requests, breakpoints, blueprint and parameters. -/
structure State.SameHostState (t s : State) : Prop where
  stop : t.stop = s.stop
  pause : t.pause = s.pause
  pauseCause : t.pauseCause = s.pauseCause
  bp : t.bp = s.bp
  blueprint : t.blueprint = s.blueprint
  memSize : t.memSize = s.memSize
  stackCap : t.stackCap = s.stackCap

theorem Effect.sameHostState {i : Instr} {s u : State} (e : Effect i s u) : u.SameHostState s := by
  obtain ⟨memSize, stackCap, blueprint, -, -, -, -, stop, pause, pauseCause, bp, -, -⟩ := e.frame
  exact ⟨stop, pause, pauseCause, bp, blueprint, memSize, stackCap⟩

theorem Ending.sameHostState {i : Instr} {s t : State} (e : Ending i s t) : t.SameHostState s := by
  cases e with
  | raised | skipped | halted | stalled => exact ⟨rfl, rfl, rfl, rfl, rfl, rfl, rfl⟩
  | completed u p effect target =>
    obtain ⟨stop, pause, pauseCause, bp, blueprint, memSize, stackCap⟩ := effect.sameHostState
    exact ⟨stop, pause, pauseCause, bp, blueprint, memSize, stackCap⟩

/-- A fault and the no-op each append one record, made before any other write; no other ending reports (R38). -/
theorem Ending.diag_cases {i : Instr} {s t : State} (e : Ending i s t) :
    t.diag = s.diag ∨ ∃ kind, t.diag = s.diag ++ [s.record kind] := by
  cases e with
  | raised cause => exact .inr ⟨.fatal cause, rfl⟩
  | skipped a dest bad => exact .inr ⟨.operandAddressError a, rfl⟩
  | halted | stalled => exact .inl rfl
  | completed u p effect target => exact .inl effect.diag_eq

/-! ## The invariant: the operations of an instruction -/

namespace State.Inv

variable {s : State}

/-- Neither cause register is set while the engine is not terminal (R31, R32). -/
theorem causes_none (h : s.Inv) (live : s.execState.terminal = false) : s.haltCause = none ∧ s.faultCause = none := by
  refine ⟨by_contra fun hc => ?_, by_contra fun hc => ?_⟩
  · rw [h.halt_cause.mpr hc] at live
    cases live
  · rw [h.fault_cause.mpr hc] at live
    cases live

/-- A live engine may become whatever is neither halted nor faulted. -/
theorem withExecState (h : s.Inv) (live : s.execState.terminal = false) {e : ExecState} (notHalted : e ≠ .halted)
    (notFaulted : e ≠ .faulted) : State.Inv { s with execState := e } :=
  have ⟨noHalt, noFault⟩ := h.causes_none live
  { h with
    halt_cause := iff_of_false notHalted (not_not_intro noHalt)
    fault_cause := iff_of_false notFaulted (not_not_intro noFault) }

theorem report (h : s.Inv) (kind : DiagKind) : (s.report kind).Inv := { h with }

/-- The pc may go anywhere in `[0, MEM_SIZE]`, since `BPSKIP` is cleared as it goes. -/
theorem retire (h : s.Inv) {p : Nat} (hp : p ≤ s.memSize) : (s.retire p).Inv :=
  { h with pc_le := hp, skip_at_breakpoint := nofun }

theorem halt (h : s.Inv) (noFault : s.faultCause = none) (cause : HaltCause) : (s.halt cause).Inv :=
  { h with
    halt_cause := iff_of_true rfl nofun
    fault_cause := iff_of_false nofun (not_not_intro noFault)
    skip_at_breakpoint := nofun }

theorem raise (h : s.Inv) (noHalt : s.haltCause = none) (cause : FaultCause) : (s.raise cause).Inv :=
  { h.report (.fatal cause) with
    halt_cause := iff_of_false nofun (not_not_intro noHalt)
    fault_cause := iff_of_true rfl nofun
    skip_at_breakpoint := nofun }

/-- The breakpoint unit sets `BPSKIP` only where the comparator fires, with the pc in `BP` (R158, R159). -/
theorem breakpointHit (h : s.Inv) (live : s.execState.terminal = false) (atBreak : s.pc ∈ s.bp) :
    s.breakpointHit.Inv :=
  { (h.report .breakpoint).withExecState (e := .paused) live nofun nofun with
    pause_cause := iff_of_true rfl nofun
    skip_at_breakpoint := fun _ => atBreak }

theorem setReg (h : s.Inv) (r : Fin 8) (v : Word) : (s.setReg r v).Inv := { h with }

/-- A push finds room below a finite `STACK_CAP` (R190). -/
theorem pushWord (h : s.Inv) (room : s.stackFull = false) (v : Word) : (s.pushWord v).Inv :=
  { h with
    depth_le := by
      intro cap hcap
      have le : s.stack.length ≤ cap := h.depth_le cap hcap
      have ne : s.stack.length ≠ cap := fun full => (stackFull_eq_false s).mp room (full ▸ hcap)
      have length : (s.pushWord v).depth = s.stack.length + 1 := List.length_append
      omega }

theorem dropTop (h : s.Inv) : s.dropTop.Inv :=
  { h with
    depth_le := fun cap hcap => (List.dropLast_sublist s.stack).length_le.trans (h.depth_le cap hcap) }

theorem memWrite (h : s.Inv) {addr : Nat} (range : addr < s.memSize) (v : Word) :
    State.Inv { s with mem := s.mem.write addr v } :=
  { h with
    mem_wf := Memory.wf_write h.mem_wf addr v
    mem_below := Memory.below_write h.mem_below range v }

theorem emit (h : s.Inv) (b : Byte) : (s.emit b).Inv := { h with }

theorem dropInput (h : s.Inv) : s.dropInput.Inv := { h with }

end State.Inv

/-! ## The invariant: instructions and attempts -/

theorem Effect.inv {i : Instr} {s u : State} (e : Effect i s u) (h : s.Inv) : u.Inv := by
  cases e with
  | nothing => exact h
  | register r v dest => exact h.setReg r v
  | pushed v who room => exact h.pushWord room v
  | popped a r v who dest top => exact h.dropTop.setReg r v
  | returned t who top => exact h.dropTop
  | stored a b addr v who ha hb range => exact h.memWrite range v
  | emitted a b who => exact h.emit b
  | consumed a r b rest who dest queue => exact h.dropInput.setReg r _

/-- Every ending of an instruction that lies inside memory keeps the invariant of a live engine. -/
theorem Ending.inv {i : Instr} {s t : State} (e : Ending i s t) (h : s.Inv) (live : s.execState.terminal = false)
    (fits : s.pc + i.width ≤ s.memSize) : t.Inv := by
  obtain ⟨noHalt, noFault⟩ := h.causes_none live
  cases e with
  | raised cause => exact h.raise noHalt cause
  | skipped a dest bad => exact (h.report _).retire fits
  | halted cause why => exact h.halt noFault cause
  | stalled => exact h
  | completed u p effect target =>
    have inMemory : p ≤ s.memSize := target.elim Nat.le_of_lt fun past => past ▸ fits
    exact (effect.inv h).retire (effect.sameHostState.memSize ▸ inMemory)

theorem Attempt.inv {s t : State} (a : Attempt s t) (h : s.Inv) : t.Inv := by
  have started (live : s.execState.terminal = false) : s.started.Inv := h.withExecState live nofun nofun
  cases a with
  | terminal => exact h
  | stopped live => exact h.withExecState live nofun nofun
  | paused live => exact h.withExecState live nofun nofun
  | breakpoint live noStop noPause atBreak => exact (started live).breakpointHit rfl atBreak
  | endOfMemory ready =>
    obtain ⟨-, noFault⟩ := h.causes_none ready.not_terminal
    exact (started ready.not_terminal).halt noFault _
  | decodeFault ready cause =>
    obtain ⟨noHalt, -⟩ := h.causes_none ready.not_terminal
    exact (started ready.not_terminal).raise noHalt cause
  | executed ready i t hd he ending =>
    exact ending.inv (started ready.not_terminal) rfl (State.decodeAt_fits hd)

/-! ## The invariant: construction and the host's operations -/

/-- The state that construction leaves, from its parameters and the image (R44, R212): everything else is as in
`State.reset`. -/
theorem inv_of_image {n : Nat} {m : Memory} (pos : 0 < n) (le : n ≤ Config.memSizeMax) (wf : m.wf = true)
    (below : m.below n = true) (cap : Option Nat) :
    State.Inv { State.reset with memSize := n, stackCap := cap, mem := m, blueprint := m } where
  memSize_pos := pos
  memSize_le := le
  mem_wf := wf
  mem_below := below
  blueprint_wf := wf
  blueprint_below := below
  pc_le := Nat.zero_le n
  depth_le := fun cap _ => Nat.zero_le cap
  halt_cause := iff_of_false nofun (not_not_intro rfl)
  fault_cause := iff_of_false nofun (not_not_intro rfl)
  pause_cause := iff_of_false nofun (not_not_intro rfl)
  bp_rising := .nil
  skip_at_breakpoint := nofun

/-- What `new` answers when it does not refuse (R212). -/
theorem hostNew_eq_next {bytes : List Byte} {n : Nat} {cap : Option Nat} {t : State}
    (h : hostNew bytes n cap = .next t) :
    0 < n ∧ n ≤ Config.memSizeMax ∧ ∃ ws, t = { State.reset with
      memSize := n, stackCap := cap, mem := imageMemory n ws, blueprint := imageMemory n ws } := by
  by_cases size : n = 0 ∨ 65536 < n
  · rw [hostNew_of_size_out_of_range size] at h
    cases h
  obtain ⟨pos, le⟩ : 0 < n ∧ n ≤ 65536 := by omega
  cases hws : wordsOfBytes bytes with
  | none =>
    rw [hostNew_of_wordsOfBytes_none pos le hws] at h
    cases h
  | some ws =>
    rw [hostNew_of_wordsOfBytes_some pos le hws] at h
    cases h
    exact ⟨pos, le, ws, rfl⟩

/-- `reset()` restores the blueprint, which meets what the invariant asks of live memory, and clears the rest (R210). -/
theorem State.Inv.hostReset {s : State} (h : s.Inv) : (hostReset s).Inv :=
  { h with
    mem_wf := h.blueprint_wf
    mem_below := h.blueprint_below
    pc_le := Nat.zero_le _
    depth_le := fun cap _ => Nat.zero_le cap
    halt_cause := iff_of_false nofun (not_not_intro rfl)
    fault_cause := iff_of_false nofun (not_not_intro rfl)
    pause_cause := iff_of_false nofun (not_not_intro rfl)
    skip_at_breakpoint := nofun }

theorem State.Inv.hostAddBreakpoint {s : State} (h : s.Inv) (addr : Nat) : (hostAddBreakpoint addr s).Inv :=
  { h with
    bp_rising := pairwise_insertAddress h.bp_rising
    skip_at_breakpoint := fun skip => mem_insertAddress.mpr (.inr (h.skip_at_breakpoint skip)) }

theorem State.Inv.applyHostOp {s : State} (h : s.Inv) (op : HostOp) : (applyHostOp op s).Inv := by
  cases op with
  | reset => exact h.hostReset
  | pause => exact { h with pause_cause := iff_of_true rfl nofun }
  | unpause => exact { h with pause_cause := iff_of_false nofun (not_not_intro rfl) }
  | stop => exact { h with }
  | addBreakpoint addr => exact h.hostAddBreakpoint addr
  | insertInput text => exact { h with }

/-! ## The obligations -/

/-- Settles O2: an instruction's words decode back whatever follows them, and words that decode are its own. -/
theorem decodeAndEncodeAgree : Obligations.DecodeAndEncodeAgree := by
  intro ws rest i
  refine ⟨eq_encode_append_of_decodeWords, fun words => ?_⟩
  rw [words, decodeWords_encode_append]

/-- Settles O49: each attempt of R151 keeps it, the executed instruction by what it can have written before its pc. -/
theorem stepKeepsInvariant : Obligations.StepKeepsInvariant := fun _ _ inv h => (step_cases h).inv inv

/-- Settles O3: one rule for each of the decoder's three answers. -/
theorem decodeAtReadsOpcodeThenOperands : Obligations.DecodeAtReadsOpcodeThenOperands := by
  intro s addr op cell
  refine ⟨State.decodeAt_of_unknown cell, fun i opcode => ?_, fun i opcode => ?_⟩
  · exact State.decodeAt_of_cutOff (opcode ▸ cell)
  · exact State.decodeAt_of_opcode_and_operands (opcode ▸ cell)

/-- Settles O10: the canonical form is the canonical form from address 0 on. -/
theorem memoriesThatReadAlikeAreEqual : Obligations.MemoriesThatReadAlikeAreEqual :=
  fun _ _ hwf hwf' alike => Memory.eq_of_read_eq hwf hwf' alike

/-- Settles O39: the four words stand in the four cells at the pc, which is all that a fetch looks at. -/
theorem placedTableWordIsFetched : Obligations.PlacedTableWordIsFetched := by
  intro s nbits w i hwf room decoded
  obtain ⟨rest, decoded⟩ := decodeTableWord_eq_some.mp decoded
  have enc : encode i <+: tableWords nbits w := ⟨rest, (eq_encode_append_of_decodeWords decoded).symm⟩
  have fits : s.pc + (tableWords nbits w).length ≤ s.memSize := room
  refine ⟨State.decodeAt_of_cells (fun k hk => State.memRead_storeWords hwf fits hk) le_rfl enc, ?_⟩
  obtain ⟨m, stored, -⟩ := s.storeWords_spec s.pc (tableWords nbits w)
  refine ⟨m, stored, fun x outside => ?_⟩
  have kept : (s.storeWords s.pc (tableWords nbits w)).mem.read x = s.mem.read x :=
    State.read_storeWords_of_outside fits outside
  rwa [stored] at kept

/-- Settles O42: however an instruction ends, it leaves the host's state alone and reports at most once. -/
theorem programCannotTouchHostState : Obligations.ProgramCannotTouchHostState := by
  intro i s t h
  have ending := exec_cases h
  obtain ⟨stop, pause, pauseCause, bp, blueprint, memSize, stackCap⟩ := ending.sameHostState
  exact ⟨stop, pause, pauseCause, bp, blueprint, memSize, stackCap, ending.diag_cases⟩

/-- Settles O50: host operation by host operation; and an image is canonical and inside its memory. -/
theorem hostOperationsKeepInvariant : Obligations.HostOperationsKeepInvariant := by
  refine ⟨fun s op inv => inv.applyHostOp op, fun bytes n cap t h => ?_⟩
  obtain ⟨pos, le, ws, rfl⟩ := hostNew_eq_next h
  exact inv_of_image pos le (imageMemory_wf n ws) (imageMemory_below n ws) cap

/-- Settles O1: the fixed words run through the decoder. -/
theorem specWordsDecodeToTheirInstructions : Obligations.SpecWordsDecodeToTheirInstructions := by
  unfold Obligations.SpecWordsDecodeToTheirInstructions
  decide

/-- Settles O8: the same register and another one. -/
theorem registerReadsBackWhatWasWritten : Obligations.RegisterReadsBackWhatWasWritten := by
  intro s r q v
  split_ifs with same
  · rw [same, setReg_get_same]
  · exact setReg_get_ne s v (Ne.symm same)

/-- Settles O48: it is the state constructed from the empty image at the parameters of log entry 2. -/
theorem resetMeetsInvariant : Obligations.ResetMeetsInvariant :=
  inv_of_image (Nat.zero_lt_succ _) le_rfl (Memory.wfFrom_nil 0) (Memory.below_nil _) none

end Machine

end Sys2Proof
end
